-- ==== Sys2Proof/Word.lean ====
section
/-! DEFINITION. The word types of the machine: bytes, 16-bit words, register indices. -/

namespace Sys2Proof

/-- An 8-bit value: a general register, a timer, a byte of memory (R20, R27, R50). -/
abbrev Byte := BitVec 8

/-- A 16-bit value: an instruction word, the program counter, the index register, a return address (R23, R24, R26, R70). -/
abbrev Word := BitVec 16

/-- The index of a general register, 0 to 15 (R20); the 4-bit fields X and Y name one (R74). -/
abbrev RegIdx := Fin 16

/-- The number of a key, 0 to 15 (R31). -/
abbrev KeyIdx := Fin 16

end Sys2Proof
end

