-- ==== Sys2Proof/Syntax.lean ====
section
/-! DEFINITION. The instructions: one constructor per row of the opcode table (R72, R75), and the decoder's descriptor. -/

namespace Sys2Proof

/-- The instructions, in the order of the opcode table. Every operand field of a format is kept, used or not (R72). -/
inductive Instr where
  /-- `00E0` clear screen (R190). -/
  | cls
  /-- `00EE` return (R120). -/
  | ret
  /-- `0NNN` machine-code routine call (R230). -/
  | sys (nnn : BitVec 12)
  /-- `1NNN` jump (R121). -/
  | jp (nnn : BitVec 12)
  /-- `2NNN` call (R123). -/
  | call (nnn : BitVec 12)
  /-- `3XNN` skip if `Vx = NN` (R125). -/
  | seImm (x : RegIdx) (nn : Byte)
  /-- `4XNN` skip if `Vx ≠ NN` (R126). -/
  | sneImm (x : RegIdx) (nn : Byte)
  /-- `5XY0` skip if `Vx = Vy` (R127). -/
  | seReg (x y : RegIdx)
  /-- `6XNN` load immediate (R141). -/
  | ldImm (x : RegIdx) (nn : Byte)
  /-- `7XNN` add immediate, no flag (R142). -/
  | addImm (x : RegIdx) (nn : Byte)
  /-- `8XY0` copy register (R143). -/
  | ldReg (x y : RegIdx)
  /-- `8XY1` bitwise OR (R144). -/
  | or (x y : RegIdx)
  /-- `8XY2` bitwise AND (R145). -/
  | and (x y : RegIdx)
  /-- `8XY3` bitwise XOR (R146). -/
  | xor (x y : RegIdx)
  /-- `8XY4` add with carry out (R148). -/
  | addReg (x y : RegIdx)
  /-- `8XY5` `Vx - Vy` with not-borrow (R149). -/
  | sub (x y : RegIdx)
  /-- `8XY6` shift right by one (R151). -/
  | shr (x y : RegIdx)
  /-- `8XY7` `Vy - Vx` with not-borrow (R152). -/
  | subn (x y : RegIdx)
  /-- `8XYE` shift left by one (R153). -/
  | shl (x y : RegIdx)
  /-- `9XY0` skip if `Vx ≠ Vy` (R128). -/
  | sneReg (x y : RegIdx)
  /-- `ANNN` set the index (R170). -/
  | ldI (nnn : BitVec 12)
  /-- `BNNN` jump to `NNN + V0` (R122). -/
  | jpV0 (nnn : BitVec 12)
  /-- `CXNN` random byte under a mask (R193). -/
  | rnd (x : RegIdx) (nn : Byte)
  /-- `DXYN` draw a sprite of `N` rows (R192). -/
  | drw (x y : RegIdx) (n : Fin 16)
  /-- `EX9E` skip if the key is down (R210). -/
  | skp (x : RegIdx)
  /-- `EXA1` skip if the key is up (R211). -/
  | sknp (x : RegIdx)
  /-- `FX07` read the delay timer (R213). -/
  | ldVxDt (x : RegIdx)
  /-- `FX0A` wait for a key (R212). -/
  | ldVxK (x : RegIdx)
  /-- `FX15` set the delay timer (R214). -/
  | ldDtVx (x : RegIdx)
  /-- `FX18` set the sound timer (R215). -/
  | ldStVx (x : RegIdx)
  /-- `FX1E` add to the index (R171). -/
  | addI (x : RegIdx)
  /-- `FX29` point the index at a font glyph (R172). -/
  | ldF (x : RegIdx)
  /-- `FX33` store three decimal digits (R173). -/
  | ldB (x : RegIdx)
  /-- `FX55` store `V0` to `Vx` (R174). -/
  | ldMemVx (x : RegIdx)
  /-- `FX65` load `V0` to `Vx` (R175). -/
  | ldVxMem (x : RegIdx)
  deriving DecidableEq, Repr

/-- The decoder's output, the InstructionDescriptor of R72: an instruction, or `Unrecognized(w)` with the whole word. -/
inductive Descriptor where
  | instr (i : Instr)
  | unrecognized (w : Word)
  deriving DecidableEq, Repr

end Sys2Proof
end

