-- ==== Sys2Proof/WellFormed.lean ====
section
/-! DEFINITION. Which terms of `Instr` are descriptors the decoder can give. The field widths are in the types (R71, R74); what
is left is that `SYS` is never the word of `CLS` or of `RET` (R75, R230). -/

namespace Sys2Proof

/-- R75 and R230: the `SYS` row takes every class-0 word except `0x00E0` and `0x00EE`. Every other term is well formed. -/
def Instr.wellFormed : Instr → Bool
  | .sys nnn => nnn != 0x0E0#12 && nnn != 0x0EE#12
  | .cls | .ret | .jp _ | .call _ | .seImm _ _ | .sneImm _ _ | .seReg _ _ | .ldImm _ _ | .addImm _ _ | .ldReg _ _
  | .or _ _ | .and _ _ | .xor _ _ | .addReg _ _ | .sub _ _ | .shr _ _ | .subn _ _ | .shl _ _ | .sneReg _ _ | .ldI _
  | .jpV0 _ | .rnd _ _ | .drw _ _ _ | .skp _ | .sknp _ | .ldVxDt _ | .ldVxK _ | .ldDtVx _ | .ldStVx _ | .addI _
  | .ldF _ | .ldB _ | .ldMemVx _ | .ldVxMem _ => true

/-- A descriptor the decoder can give: a well-formed instruction, or an unrecognized word (which words these are is the
decoder's to say, R77). -/
def Descriptor.wellFormed : Descriptor → Bool
  | .instr i => i.wellFormed
  | .unrecognized _ => true

end Sys2Proof
end

