-- ==== Sys2Proof/Decode.lean ====
section
/-! DEFINITION. The decoder (R70 to R77): the opcode table as rows of mask and pattern, the total decoder over words and over
bytes, and after it the encoder of R76. -/

namespace Sys2Proof

/-- `X = w[11:8]`, a register index (R71, R74). -/
def fieldX (w : Word) : RegIdx := (w.extractLsb' 8 4).toFin

/-- `Y = w[7:4]`, a register index (R71, R74). -/
def fieldY (w : Word) : RegIdx := (w.extractLsb' 4 4).toFin

/-- `N = w[3:0]`, a count of 0 to 15 (R71, R74). -/
def fieldN (w : Word) : Fin 16 := (w.extractLsb' 0 4).toFin

/-- `NN = w[7:0]`, an 8-bit immediate (R71, R74). -/
def fieldNN (w : Word) : Byte := w.extractLsb' 0 8

/-- `NNN = w[11:0]`, a 12-bit address (R71, R74). -/
def fieldNNN (w : Word) : BitVec 12 := w.extractLsb' 0 12

/-- One row of the opcode table: the words `w` with `w &&& mask = pattern`, and the instruction they stand for. -/
structure Row where
  mask : Word
  pattern : Word
  build : Word → Instr

/-- The rows of classes 0 to 7 (R75). In class 0 the two exact words come before `SYS`. -/
def rowsLow : List Row :=
  [ ⟨0xFFFF, 0x00E0, fun _ => .cls⟩,
    ⟨0xFFFF, 0x00EE, fun _ => .ret⟩,
    ⟨0xF000, 0x0000, fun w => .sys (fieldNNN w)⟩,
    ⟨0xF000, 0x1000, fun w => .jp (fieldNNN w)⟩,
    ⟨0xF000, 0x2000, fun w => .call (fieldNNN w)⟩,
    ⟨0xF000, 0x3000, fun w => .seImm (fieldX w) (fieldNN w)⟩,
    ⟨0xF000, 0x4000, fun w => .sneImm (fieldX w) (fieldNN w)⟩,
    ⟨0xF00F, 0x5000, fun w => .seReg (fieldX w) (fieldY w)⟩,
    ⟨0xF000, 0x6000, fun w => .ldImm (fieldX w) (fieldNN w)⟩,
    ⟨0xF000, 0x7000, fun w => .addImm (fieldX w) (fieldNN w)⟩ ]

/-- The rows of classes 8 and 9 (R75). -/
def rowsAlu : List Row :=
  [ ⟨0xF00F, 0x8000, fun w => .ldReg (fieldX w) (fieldY w)⟩,
    ⟨0xF00F, 0x8001, fun w => .or (fieldX w) (fieldY w)⟩,
    ⟨0xF00F, 0x8002, fun w => .and (fieldX w) (fieldY w)⟩,
    ⟨0xF00F, 0x8003, fun w => .xor (fieldX w) (fieldY w)⟩,
    ⟨0xF00F, 0x8004, fun w => .addReg (fieldX w) (fieldY w)⟩,
    ⟨0xF00F, 0x8005, fun w => .sub (fieldX w) (fieldY w)⟩,
    ⟨0xF00F, 0x8006, fun w => .shr (fieldX w) (fieldY w)⟩,
    ⟨0xF00F, 0x8007, fun w => .subn (fieldX w) (fieldY w)⟩,
    ⟨0xF00F, 0x800E, fun w => .shl (fieldX w) (fieldY w)⟩,
    ⟨0xF00F, 0x9000, fun w => .sneReg (fieldX w) (fieldY w)⟩ ]

/-- The rows of classes A to F (R75). -/
def rowsHigh : List Row :=
  [ ⟨0xF000, 0xA000, fun w => .ldI (fieldNNN w)⟩,
    ⟨0xF000, 0xB000, fun w => .jpV0 (fieldNNN w)⟩,
    ⟨0xF000, 0xC000, fun w => .rnd (fieldX w) (fieldNN w)⟩,
    ⟨0xF000, 0xD000, fun w => .drw (fieldX w) (fieldY w) (fieldN w)⟩,
    ⟨0xF0FF, 0xE09E, fun w => .skp (fieldX w)⟩,
    ⟨0xF0FF, 0xE0A1, fun w => .sknp (fieldX w)⟩,
    ⟨0xF0FF, 0xF007, fun w => .ldVxDt (fieldX w)⟩,
    ⟨0xF0FF, 0xF00A, fun w => .ldVxK (fieldX w)⟩,
    ⟨0xF0FF, 0xF015, fun w => .ldDtVx (fieldX w)⟩,
    ⟨0xF0FF, 0xF018, fun w => .ldStVx (fieldX w)⟩,
    ⟨0xF0FF, 0xF01E, fun w => .addI (fieldX w)⟩,
    ⟨0xF0FF, 0xF029, fun w => .ldF (fieldX w)⟩,
    ⟨0xF0FF, 0xF033, fun w => .ldB (fieldX w)⟩,
    ⟨0xF0FF, 0xF055, fun w => .ldMemVx (fieldX w)⟩,
    ⟨0xF0FF, 0xF065, fun w => .ldVxMem (fieldX w)⟩ ]

/-- The opcode table in the order of R75; the first match wins. -/
def rows : List Row := rowsLow ++ rowsAlu ++ rowsHigh

/-- Whether a word is one of a row's words. -/
def Row.matches (r : Row) (w : Word) : Bool := w &&& r.mask == r.pattern

/-- The decoder: total, pure, context-free (R73). Words outside every row are `Unrecognized(w)` (R77). -/
def decode (w : Word) : Descriptor :=
  match rows.find? (fun r => r.matches w) with
  | some r => .instr (r.build w)
  | none => .unrecognized w

/-- A field put at its position: its bit 0 becomes bit `k` of the word (R9, R76). -/
def placeField {n : Nat} (v : BitVec n) (k : Nat) : Word := v.setWidth 16 <<< k

/-- The word of two bytes in memory order: the first byte is `w[15:8]` (R53). -/
def wordOfBytes (hi lo : Byte) : Word := placeField hi 8 ||| placeField lo 0

/-- `w[15:8]`, the byte at the lower address (R53). -/
def highByte (w : Word) : Byte := w.extractLsb' 8 8

/-- `w[7:0]`, the byte at the higher address (R53). -/
def lowByte (w : Word) : Byte := w.extractLsb' 0 8

/-- Why bytes are no instruction. -/
inductive DecodeStop where
  /-- The word decodes to `Unrecognized(w)` (R77). -/
  | unrecognized (w : Word)
  /-- Fewer than the two bytes of an instruction (R70). -/
  | tooShort (n : Nat)
  deriving DecidableEq, Repr

/-- The decoder over bytes in memory order: the instruction of the first two bytes and the bytes after it. -/
def decodeBytes : List Byte → Except DecodeStop (Instr × List Byte)
  | hi :: lo :: rest =>
    match decode (wordOfBytes hi lo) with
    | .instr i => .ok (i, rest)
    | .unrecognized w => .error (.unrecognized w)
  | short => .error (.tooShort short.length)

/-- Format `A`: class nibble and address (R72). -/
def encodeA (c : BitVec 4) (nnn : BitVec 12) : Word := placeField c 12 ||| placeField nnn 0

/-- Format `XNN`: class nibble, register, immediate (R72). -/
def encodeXNN (c : BitVec 4) (x : RegIdx) (nn : Byte) : Word :=
  placeField c 12 ||| placeField (BitVec.ofFin (w := 4) x) 8 ||| placeField nn 0

/-- Formats `XY` and `XYN`: class nibble, two registers, and the low nibble, a sub-function or the height (R72). -/
def encodeXYN (c : BitVec 4) (x y : RegIdx) (n : BitVec 4) : Word :=
  placeField c 12 ||| placeField (BitVec.ofFin (w := 4) x) 8 ||| placeField (BitVec.ofFin (w := 4) y) 4 ||| placeField n 0

/-- The encoder of R76: each field back at its position, with the class nibble and sub-function bits of the row. -/
def encode : Instr → Word
  | .cls => 0x00E0#16
  | .ret => 0x00EE#16
  | .sys nnn => encodeA 0x0 nnn
  | .jp nnn => encodeA 0x1 nnn
  | .call nnn => encodeA 0x2 nnn
  | .seImm x nn => encodeXNN 0x3 x nn
  | .sneImm x nn => encodeXNN 0x4 x nn
  | .seReg x y => encodeXYN 0x5 x y 0x0
  | .ldImm x nn => encodeXNN 0x6 x nn
  | .addImm x nn => encodeXNN 0x7 x nn
  | .ldReg x y => encodeXYN 0x8 x y 0x0
  | .or x y => encodeXYN 0x8 x y 0x1
  | .and x y => encodeXYN 0x8 x y 0x2
  | .xor x y => encodeXYN 0x8 x y 0x3
  | .addReg x y => encodeXYN 0x8 x y 0x4
  | .sub x y => encodeXYN 0x8 x y 0x5
  | .shr x y => encodeXYN 0x8 x y 0x6
  | .subn x y => encodeXYN 0x8 x y 0x7
  | .shl x y => encodeXYN 0x8 x y 0xE
  | .sneReg x y => encodeXYN 0x9 x y 0x0
  | .ldI nnn => encodeA 0xA nnn
  | .jpV0 nnn => encodeA 0xB nnn
  | .rnd x nn => encodeXNN 0xC x nn
  | .drw x y n => encodeXYN 0xD x y (BitVec.ofFin (w := 4) n)
  | .skp x => encodeXNN 0xE x 0x9E
  | .sknp x => encodeXNN 0xE x 0xA1
  | .ldVxDt x => encodeXNN 0xF x 0x07
  | .ldVxK x => encodeXNN 0xF x 0x0A
  | .ldDtVx x => encodeXNN 0xF x 0x15
  | .ldStVx x => encodeXNN 0xF x 0x18
  | .addI x => encodeXNN 0xF x 0x1E
  | .ldF x => encodeXNN 0xF x 0x29
  | .ldB x => encodeXNN 0xF x 0x33
  | .ldMemVx x => encodeXNN 0xF x 0x55
  | .ldVxMem x => encodeXNN 0xF x 0x65

/-- The encoder on descriptors: `encode(Unrecognized(w)) = w` (R76). -/
def Descriptor.encode : Descriptor → Word
  | .instr i => Sys2Proof.encode i
  | .unrecognized w => w

/-- The first word of an instruction whose bits are numbered as the opcode table numbers them: bit 0 is the least significant
bit of the word, and the bits above `nbits` are 0. -/
def tableWord (nbits w : Nat) : Word := BitVec.ofNat 16 (w % 2 ^ nbits)

/-- The instruction the decoder reads from a word given in the opcode table's numbering; none where it refuses. -/
def decodeTableWord (nbits w : Nat) : Option Instr :=
  match decodeBytes [highByte (tableWord nbits w), lowByte (tableWord nbits w)] with
  | .ok (i, _) => some i
  | .error _ => none

end Sys2Proof
end

