-- ==== Sys2Proof/Config.lean ====
section
/-! DEFINITION. What is fixed for a run (R6, R8, R33, R266) and the free value of the random source (R35). -/

namespace Sys2Proof

/-- The three quirk toggles, exactly the fields R6 names. -/
structure Quirks where
  /-- R150: a shift reads `Vy` when true, `Vx` when false. -/
  legacyShift : Bool
  /-- R176: `FX55` and `FX65` end with `I` past the last byte moved when true. -/
  incrementIndexOnBlockIo : Bool
  /-- R171: `FX1E` writes `VF` when true. -/
  indexOverflowFlag : Bool
  deriving DecidableEq, Repr

/-- The arguments of the model (R8). They are fixed for a run and no event changes them (R33, R266). They stand in State as
plain data, so that a statement about every state is a statement about every configuration (log 1). -/
structure Config where
  quirks : Quirks
  /-- FONT_BASE: the address of glyph 0. The 80 font bytes lie inside 0x000 to 0x1FF (R37), so it is at most 432. -/
  fontBase : Fin 433
  /-- FONT_GLYPHS: 16 glyphs of 5 bytes (R37, R38). -/
  fontGlyphs : Vector Byte 80
  /-- UNRECOGNIZED_ADVANCES: whether an unrecognized opcode advances the PC (R8, R108). -/
  unrecognizedAdvances : Bool
  /-- HALT_ON_ERROR: whether the scheduler stops on a reported error (R8, R108). -/
  haltOnError : Bool
  deriving DecidableEq, Repr

/-- The free byte that draw number `n` of the random source gives (R35, R193). It has no value anyone can know: every claim
holds for every byte (log 3). -/
opaque Config.randomByte : Nat → Byte

end Sys2Proof
end

