-- ==== Sys2Proof/Machine/Font.lean ====
section
/-! DEFINITION. The font table of R38 and the default configuration (R6, R8). -/

namespace Sys2Proof

/-- Glyphs 0 to 7 of R38, five bytes each, the top row first. -/
def fontLow : List Byte :=
  [0xF0, 0x90, 0x90, 0x90, 0xF0] ++ [0x20, 0x60, 0x20, 0x20, 0x70] ++
  [0xF0, 0x10, 0xF0, 0x80, 0xF0] ++ [0xF0, 0x10, 0xF0, 0x10, 0xF0] ++
  [0x90, 0x90, 0xF0, 0x10, 0x10] ++ [0xF0, 0x80, 0xF0, 0x10, 0xF0] ++
  [0xF0, 0x80, 0xF0, 0x90, 0xF0] ++ [0xF0, 0x10, 0x20, 0x40, 0x40]

/-- Glyphs 8 to F of R38. -/
def fontHigh : List Byte :=
  [0xF0, 0x90, 0xF0, 0x90, 0xF0] ++ [0xF0, 0x90, 0xF0, 0x10, 0xF0] ++
  [0xF0, 0x90, 0xF0, 0x90, 0x90] ++ [0xE0, 0x90, 0xE0, 0x90, 0xE0] ++
  [0xF0, 0x80, 0x80, 0x80, 0xF0] ++ [0xE0, 0x90, 0x90, 0x90, 0xE0] ++
  [0xF0, 0x80, 0xF0, 0x80, 0xF0] ++ [0xF0, 0x80, 0xF0, 0x80, 0x80]

/-- The 80 font bytes of R38 (the spec gives them from general knowledge, log 14). -/
def standardFont : Vector Byte 80 := ⟨⟨fontLow ++ fontHigh⟩, rfl⟩

/-- The default profile: R6 for the quirks, R8 for FONT_BASE, FONT_GLYPHS and UNRECOGNIZED_ADVANCES.
DESIGN CHOICE (log 2, unsafe): R8 leaves HALT_ON_ERROR open; the machine after reset has `false`. -/
def defaultConfig : Config where
  quirks := { legacyShift := true, incrementIndexOnBlockIo := true, indexOverflowFlag := false }
  fontBase := 0x050
  fontGlyphs := standardFont
  unrecognizedAdvances := true
  haltOnError := false

end Sys2Proof
end

