-- ==== Sys2Proof/Machine/State.lean ====
section
/-! DEFINITION. The Machine State (10_state.md), the errors and events it names, and the machine right after reset. -/

namespace Sys2Proof.Machine

/-- The four errors an execute step reports, with the info of R240. A reported error is no stop of the model: the scheduler
goes on or halts, and the step answers a next state (R108). -/
inductive MachineError where
  /-- An unrecognized word, or `SYS` (R230, R231). -/
  | unrecognizedOpcode (w : Word)
  /-- `CALL` at depth 16 (R123). -/
  | stackOverflow
  /-- `RET` at depth 0 (R120). -/
  | stackUnderflow
  /-- The first offending address of a fetch or a data access, a natural number without wrap (R55, R56). -/
  | outOfBoundsAccess (a : Nat)
  deriving DecidableEq, Repr

/-- What is reported to the caller: the error with its info and the `pc` of the instruction (R108, R232, R240). -/
structure ErrorReport where
  error : MachineError
  pc : Word
  deriving DecidableEq, Repr

/-- The scheduler mode (R36). -/
inductive Mode where
  /-- The scheduler executes instructions. -/
  | running
  /-- `FX0A` waits for a key-down edge and will write the key to `Vx`. -/
  | awaitingKey (x : RegIdx)
  /-- The run stopped on the reported error. -/
  | halted (e : MachineError)
  deriving DecidableEq, Repr

/-- The framebuffer: 32 rows of 64 pixels, `fb[y][x]`; `true` is a set pixel (R29). -/
abbrev Framebuffer := Vector (Vector Bool 64) 32

/-- A key-state snapshot; `true` is a key that is down (R31). -/
abbrev Keys := Vector Bool 16

/-- Memory: the bytes that differ from the reset contents of their address, addresses strictly rising (log 19). -/
abbrev Memory := List Host.Cell

/-- The events of the agents of R252. Each is one indivisible event (R247). -/
inductive Event where
  /-- The executor's turn: one step (R100). -/
  | step
  /-- One 60 Hz tick of the timer unit (R255). -/
  | tick
  /-- The input provider writes a new key-state snapshot (R264, R265). -/
  | keyUpdate (new : Keys)
  /-- The renderer reads the framebuffer and the dirty flag (R262). -/
  | present
  /-- The host resets the machine and loads a program (R280, R283). -/
  | reset (program : List Byte)
  /-- The host stops the loop (R267). -/
  | stop
  deriving DecidableEq, Repr

/-- The Machine State (R20 to R36), with the arguments of the model (R6, R8), the record of what the core surfaces to the
outside (R241, R258), and the model's own two fields `draws` (log 3) and `schedule` (log 4). -/
structure State where
  /-- The arguments of the model, fixed for a run (R33, log 1). -/
  config : Config
  /-- `V0` to `VF` (R20); `v[15]` is `VF`, the flag register (R21). -/
  v : Vector Byte 16
  /-- The index register `I` (R23). -/
  i : Word
  /-- `PC`: between steps, the address of the next instruction (R24). -/
  pc : Word
  /-- The call stack, its top at the end; the depth is its length (R26). -/
  stack : List Word
  /-- The delay timer `DT` (R27). -/
  dt : Byte
  /-- The sound timer `ST` (R27). -/
  st : Byte
  /-- The framebuffer (R29). -/
  fb : Framebuffer
  /-- The output flag `display_dirty` (R30). -/
  displayDirty : Bool
  /-- The key-state snapshot, written by the input provider alone (R31). -/
  keys : Keys
  /-- The scheduler mode (R36). -/
  mode : Mode
  /-- The 4096 bytes of memory (R50), read through `State.readByte`. -/
  mem : Memory
  /-- The error reports surfaced to the caller, newest first (R108, R241; log 7). No event reads them. -/
  reports : List ErrorReport
  /-- The sound-change notifications surfaced to the audio device, newest first (R258; log 7). No event reads them. -/
  soundNotes : List Bool
  /-- THE MODEL'S OWN: how many bytes the random source has given; draw `n` is `Config.randomByte n` (log 3). -/
  draws : Nat
  /-- THE MODEL'S OWN: the events still to come, in the order the machine's owner puts them (R247, R252). When nothing is
  listed the next event is a step (log 4). -/
  schedule : List Event
  deriving DecidableEq, Repr

/-- Why the machine stops. No instruction stops it. -/
inductive Fault where
  /-- Raised by a turn of the executor in mode `Halted(e)`: the run has ended (R109, R269). Safe: nothing goes on there. -/
  | halted (e : MachineError)
  /-- Raised by the host's stop event: the run has ended (R267, R269). Safe: the host itself ends the run. -/
  | hostStopped
  deriving DecidableEq, Repr

/-- What the machine refuses. -/
inductive Refusal where
  /-- Raised by an arm of `exec` whose instruction has no meaning yet. No arm is left. Safe. -/
  | notModelled (mnemonic : String)
  /-- Raised by the loader for a program of more than 3,584 bytes, here of `len`: no state is created or changed (R284).
  Safe: the model stops where the old machine would go on. -/
  | programTooLong (len : Nat)
  deriving DecidableEq, Repr

/-- The machine right after reset with an empty program (R39, R280), all keys up (R31), the default configuration (log 2).
`draws`, `reports`, `soundNotes` and `schedule` start empty (DESIGN CHOICE, logs 3, 4, 7). Nothing is listed in memory: an
unlisted address reads as its reset contents, the font or 0 (log 19). -/
def State.reset : State where
  config := defaultConfig
  v := .replicate 16 0
  i := 0
  pc := 0x200
  stack := []
  dt := 0
  st := 0
  fb := .replicate 32 (.replicate 64 false)
  displayDirty := true
  keys := .replicate 16 false
  mode := .running
  mem := []
  reports := []
  soundNotes := []
  draws := 0
  schedule := []

end Sys2Proof.Machine
end

