-- ==== Sys2Proof/Machine/Ops.lean ====
section
/-! DEFINITION. The named operations over memory, registers, the framebuffer and the outputs, the executor's result and its
application (R101, R103), and the one way an error is taken (R108). -/

namespace Sys2Proof

/-- What an address holds after reset when no program byte lies there: the font at FONT_BASE (R37, R38), 0 elsewhere (R39). -/
def Config.resetByte (c : Config) (a : Nat) : Byte :=
  if h : c.fontBase.val ≤ a ∧ a < c.fontBase.val + 80 then c.fontGlyphs[a - c.fontBase.val] else 0

namespace Machine

/-! ### Memory as a canonical list -/

/-- The byte listed for an address, if any. -/
def Memory.lookup (a : Nat) : Memory → Option Byte
  | [] => none
  | (b, v) :: rest => if a = b then some v else Memory.lookup a rest

/-- Memory with `a` listed as `v`, at its place in the rising order. -/
def Memory.insert (a : Nat) (v : Byte) : Memory → Memory
  | [] => [(a, v)]
  | (b, u) :: rest =>
    if a < b then (a, v) :: (b, u) :: rest
    else if a = b then (a, v) :: rest
    else (b, u) :: Memory.insert a v rest

/-- Memory with `a` not listed. -/
def Memory.erase (a : Nat) : Memory → Memory
  | [] => []
  | (b, u) :: rest => if a = b then rest else (b, u) :: Memory.erase a rest

/-- The byte at `a`, where an unlisted address reads as `unlisted a`. -/
def Memory.read (unlisted : Nat → Byte) (m : Memory) (a : Nat) : Byte := (m.lookup a).getD (unlisted a)

/-- Memory with `v` at `a`. Writing what an unlisted address reads as removes the entry. -/
def Memory.write (unlisted : Nat → Byte) (m : Memory) (a : Nat) (v : Byte) : Memory :=
  if v = unlisted a then m.erase a else m.insert a v

/-- The canonical form: addresses strictly rising and inside the 4096 bytes (R50), no entry equal to the reset contents. -/
abbrev Memory.wf (unlisted : Nat → Byte) (m : Memory) : Prop :=
  m.Pairwise (fun c d => c.1 < d.1) ∧ ∀ c ∈ m, c.1 < 0x1000 ∧ c.2 ≠ unlisted c.1

/-! ### Registers, timers and outputs -/

/-- `x[r]` reads a general register (R11, R20). -/
def State.reg (s : State) (r : RegIdx) : Byte := s.v[r]

/-- `x[r] <- b` (R11, R20). -/
def State.setReg (s : State) (r : RegIdx) (b : Byte) : State := { s with v := s.v.set r b }

/-- The result to `Vx` and then the flag to `VF`, so that the flag wins when `x = 15` (R21, R140). -/
def State.setRegAndFlag (s : State) (x : RegIdx) (result flag : Byte) : State := (s.setReg x result).setReg 15 flag

/-- `I <- a` (R11, R23). -/
def State.setIndex (s : State) (a : Word) : State := { s with i := a }

/-- `PC <- a` (R24). -/
def State.setPc (s : State) (a : Word) : State := { s with pc := a }

/-- The call stack becomes `l` (R26). -/
def State.setStack (s : State) (l : List Word) : State := { s with stack := l }

/-- `DT <- b` (R27). -/
def State.setDelay (s : State) (b : Byte) : State := { s with dt := b }

/-- The output level `sound_on` (R28, R263). -/
def State.soundOn (s : State) : Bool := s.st != 0

/-- `ST <- b`, with the notification of R258 when and only when the level `sound_on` changes. -/
def State.setSound (s : State) (b : Byte) : State :=
  { s with st := b, soundNotes := if s.soundOn != (b != 0) then (b != 0) :: s.soundNotes else s.soundNotes }

/-- The framebuffer becomes `fb` (R29). -/
def State.setFb (s : State) (fb : Framebuffer) : State := { s with fb := fb }

/-- `display_dirty <- true` when an instruction's result says so (R103). -/
def State.markDirty (s : State) (dirty : Bool) : State := { s with displayDirty := s.displayDirty || dirty }

/-- `mode <- m` (R36). -/
def State.setMode (s : State) (m : Mode) : State := { s with mode := m }

/-- The byte the next draw of the random source gives (R35, log 3). -/
def State.nextDraw (s : State) : Byte := Config.randomByte s.draws

/-- One draw is made (R193). -/
def State.countDraw (s : State) : State := { s with draws := s.draws + 1 }

/-! ### Memory of the machine -/

/-- The byte at an address (R58). -/
def State.readByte (s : State) (a : Nat) : Byte := Memory.read s.config.resetByte s.mem a

/-- `mem[a] <- b`, with no check (R56: the checks of an instruction come first, R106). -/
def State.writeByte (s : State) (a : Nat) (b : Byte) : State :=
  { s with mem := Memory.write s.config.resetByte s.mem a b }

/-- The bytes at `a .. a+n-1` (R11). -/
def State.readBytes (s : State) (a n : Nat) : List Byte := (List.range' a n).map s.readByte

/-- The bytes written in order from `a` up (R11). -/
def State.writeBytes (s : State) (a : Nat) : List Byte → State
  | [] => s
  | b :: bs => (s.writeByte a b).writeBytes (a + 1) bs

/-- MemRead's bound (R55). -/
def readable (a : Nat) : Bool := decide (a < 0x1000)

/-- MemWrite's bounds (R55, R56). -/
def writable (a : Nat) : Bool := decide (0x200 ≤ a ∧ a < 0x1000)

/-- The first offending address of `a .. a+n-1` in increasing order, addresses being natural numbers without wrap (R55). -/
def firstBad (allowed : Nat → Bool) (a n : Nat) : Option Nat := (List.range' a n).find? (fun b => !allowed b)

/-- The fetch of R100: the word at `pc`, big-endian (R53), or the error of R107. No alignment is checked (R54). -/
def State.fetch (s : State) : Except MachineError Word :=
  match firstBad readable s.pc.toNat 2 with
  | some a => .error (.outOfBoundsAccess a)
  | none => .ok (wordOfBytes (s.readByte s.pc.toNat) (s.readByte (s.pc.toNat + 1)))

/-! ### The framebuffer and sprites -/

/-- The clear framebuffer (R190). -/
def Framebuffer.clear : Framebuffer := .replicate 32 (.replicate 64 false)

/-- `fb[py][px]` (R29). -/
def Framebuffer.pixel (fb : Framebuffer) (px : Fin 64) (py : Fin 32) : Bool := fb[py][px]

/-- `fb[py][px] <- fb[py][px] ^ 1` (R192). -/
def Framebuffer.toggle (fb : Framebuffer) (px : Fin 64) (py : Fin 32) : Framebuffer :=
  fb.set py (fb[py].set px (!fb[py][px]))

/-- The screen column of sprite column `c`, wrapped (R191). -/
def wrapColumn (x0 : Byte) (c : Nat) : Fin 64 := Fin.ofNat 64 (x0.toNat + c)

/-- The screen row of sprite row `r`, wrapped (R191). -/
def wrapRow (y0 : Byte) (r : Nat) : Fin 32 := Fin.ofNat 32 (y0.toNat + r)

/-- The sprite bit at column offset `c`: bit 7 is the leftmost pixel (R191). -/
def spriteBit (b : Byte) (c : Nat) : Bool := b.getLsbD (7 - c)

/-- One sprite pixel onto the framebuffer; the second component says whether some pixel so far went from set to unset (R192). -/
def drawPixel (px : Fin 64) (py : Fin 32) (bit : Bool) (acc : Framebuffer × Bool) : Framebuffer × Bool :=
  if bit then (Framebuffer.toggle acc.1 px py, acc.2 || Framebuffer.pixel acc.1 px py) else acc

/-- One sprite row, columns 0 to 7 (R192). -/
def drawRow (x0 : Byte) (py : Fin 32) (b : Byte) (acc : Framebuffer × Bool) : Framebuffer × Bool :=
  (List.range 8).foldl (fun acc c => drawPixel (wrapColumn x0 c) py (spriteBit b c) acc) acc

/-- The sprite rows from row `r` on (R192). -/
def drawRows (x0 y0 : Byte) (r : Nat) : List Byte → Framebuffer × Bool → Framebuffer × Bool
  | [], acc => acc
  | b :: bs, acc => drawRows x0 y0 (r + 1) bs (drawRow x0 (wrapRow y0 r) b acc)

/-! ### The executor's result, and how it is applied -/

/-- The next-PC policy (R101). A skip is a jump to `pc + 4`. -/
inductive NextPc where
  | advance
  | jump (target : Word)
  | awaitKey (x : RegIdx)
  deriving DecidableEq, Repr

/-- The executor's ExecutionResult (R101): the state with the instruction's writes made, the next-PC policy and the dirty flag;
or an error, with no write made. -/
inductive ExecResult where
  | ok (written : State) (next : NextPc) (dirty : Bool)
  | err (e : MachineError)
  deriving DecidableEq, Repr

/-- Whether an error is the one UNRECOGNIZED_ADVANCES speaks of (R108). -/
def MachineError.isUnrecognized : MachineError → Bool
  | .unrecognizedOpcode _ => true
  | .stackOverflow | .stackUnderflow | .outOfBoundsAccess _ => false

/-- The numeric error codes of R240 (D44). -/
def MachineError.code : MachineError → Nat
  | .unrecognizedOpcode _ => 1
  | .stackOverflow => 2
  | .stackUnderflow => 3
  | .outOfBoundsAccess _ => 4

/-- Whether the scheduler halts on a reported error (R108). -/
def haltsOn (c : Config) (e : MachineError) : Bool :=
  c.haltOnError || (e.isUnrecognized && !c.unrecognizedAdvances)

/-- TAKING AN ERROR, the one shared operation (R108): the report with its `pc` is surfaced, and the scheduler either halts with
the PC on the failing instruction or continues at `pc + 2`. Nothing else changes (R106, R242). There is no return from it: there
is no handler (R245), and `Halted` is left only by reset (R281). -/
def State.takeError (s : State) (e : MachineError) : State :=
  { s with
    reports := { error := e, pc := s.pc } :: s.reports
    mode := if haltsOn s.config e then .halted e else s.mode
    pc := if haltsOn s.config e then s.pc else s.pc + 2 }

/-- The PC (and for a wait the mode) after a next-PC policy of the instruction fetched from `pc` (R103). -/
def State.applyNextPc (s : State) (pc : Word) : NextPc → State
  | .advance => s.setPc (pc + 2)
  | .jump target => s.setPc target
  | .awaitKey x => (s.setPc pc).setMode (.awaitingKey x)

/-- `apply` of R103 and R108: the state after the instruction at `s.pc` gave its result. -/
def State.applyResult (s : State) : ExecResult → State
  | .ok written next dirty => (written.applyNextPc s.pc next).markDirty dirty
  | .err e => s.takeError e

/-- The end of every instruction: its result is applied, and the machine goes on to the next state. -/
def complete (s : State) (r : ExecResult) : Host.Outcome State Fault Refusal := .next (s.applyResult r)

end Machine

end Sys2Proof
end

