-- ==== Sys2Proof/Machine/Flags.lean ====
section
/-! DEFINITION. Every computation of the flag register VF (R22). -/

namespace Sys2Proof.Machine

/-- A flag as the byte `VF` holds: 1 or 0 (R22). -/
def flagByte (b : Bool) : Byte := if b then 1 else 0

/-- Carry of `8XY4`: 1 iff the unsigned sum exceeds 255 (R148). -/
def carryFlag (a b : Byte) : Byte := flagByte (decide (a.toNat + b.toNat > 255))

/-- Not-borrow of `a - b`: 1 iff `a >= b` (R149, R152). -/
def notBorrowFlag (a b : Byte) : Byte := flagByte (decide (a.toNat ≥ b.toNat))

/-- The bit a right shift by one moves out: bit 0 (R151). -/
def shiftedOutRight (b : Byte) : Byte := b &&& 1

/-- The bit a left shift by one moves out: bit 7 (R153). -/
def shiftedOutLeft (b : Byte) : Byte := b >>> 7

/-- Collision of `DXYN`: 1 iff some pixel went from set to unset (R192). -/
def collisionFlag (hit : Bool) : Byte := flagByte hit

/-- The flag of `FX1E` under `index_overflow_flag`: 1 iff `I + Vx` passes 0x0FFF (R171). -/
def indexOverflow (i : Word) (b : Byte) : Byte := flagByte (decide (i.toNat + b.toNat > 0x0FFF))

end Sys2Proof.Machine
end

