-- ==== Sys2Proof/Machine/Operands.lean ====
section
/-! DEFINITION. Every operand form: addresses, the shift source, low-nibble selectors, register blocks, decimal digits. -/

namespace Sys2Proof.Machine

/-- A 12-bit address in a 16-bit register: `zext_16(NNN)` (R74). -/
def addressOperand (nnn : BitVec 12) : Word := nnn.setWidth 16

/-- A register as a 16-bit summand: `zext_16(x[r])` (R122, R171). -/
def State.wideReg (s : State) (r : RegIdx) : Word := (s.reg r).setWidth 16

/-- The value a shift reads: `Vy` under `legacy_shift`, `Vx` otherwise (R150). -/
def State.shiftSource (s : State) (x y : RegIdx) : Byte :=
  if s.config.quirks.legacyShift then s.reg y else s.reg x

/-- The low nibble of a byte, the only part that names a glyph or a key (R172, R210, R211). -/
def lowNibble (b : Byte) : Fin 16 := (b.extractLsb' 0 4).toFin

/-- `keys[x[r] & 0x0F]` (R210, R211). -/
def State.keyNamedBy (s : State) (r : RegIdx) : Bool := s.keys[lowNibble (s.reg r)]

/-- `FONT_BASE + 5 * (b & 0x0F)` (R172). -/
def glyphAddress (c : Config) (b : Byte) : Word := BitVec.ofNat 16 (c.fontBase.val + 5 * (lowNibble b).val)

/-- The registers a block transfer moves, `V0` to `Vx` in order (R174, R175). -/
def blockRegs (x : RegIdx) : List RegIdx := (List.finRange 16).filter (fun k => decide (k ≤ x))

/-- The number of bytes a block transfer moves: `X + 1` (R174, R175). -/
def blockSize (x : RegIdx) : Nat := x.val + 1

/-- The three decimal digits of a byte, hundreds first (R173). -/
def decimalDigits (b : Byte) : List Byte :=
  [BitVec.ofNat 8 (b.toNat / 100), BitVec.ofNat 8 (b.toNat / 10 % 10), BitVec.ofNat 8 (b.toNat % 10)]

/-- The effective address `I + k`, a natural number without wrap (R177). -/
def State.indexed (s : State) (k : Nat) : Nat := s.i.toNat + k

/-- The index after a block transfer: past the last byte moved under the quirk, unchanged otherwise (R176). -/
def State.indexAfterBlock (s : State) (x : RegIdx) : Word :=
  if s.config.quirks.incrementIndexOnBlockIo then s.i + BitVec.ofNat 16 (blockSize x) else s.i

/-- The registers of a block loaded from the bytes at `I` up (R175). -/
def State.loadBlock (s : State) (x : RegIdx) : State :=
  (blockRegs x).foldl (fun t k => t.setReg k (s.readByte (s.indexed k.val))) s

end Sys2Proof.Machine
end

