-- ==== Sys2Proof/Machine/Alu.lean ====
section
/-! DEFINITION. Register loads and arithmetic (42_alu.md). Every operand is read before any write, and a flag is written last
(R140). -/

namespace Sys2Proof.Machine

/-- The end of an instruction whose one write is `Vx`. -/
def writeReg (x : RegIdx) (result : Byte) (s : State) : Host.Outcome State Fault Refusal :=
  complete s (.ok (s.setReg x result) .advance false)

/-- The end of an instruction that writes `Vx` and then the flag (R140). -/
def writeRegAndFlag (x : RegIdx) (result flag : Byte) (s : State) : Host.Outcome State Fault Refusal :=
  complete s (.ok (s.setRegAndFlag x result flag) .advance false)

/-- `LD Vx, NN` (R141). -/
def execLdImm (x : RegIdx) (nn : Byte) (s : State) : Host.Outcome State Fault Refusal :=
  writeReg x nn s

/-- `ADD Vx, NN` (R142): wraps modulo 256, no flag. -/
def execAddImm (x : RegIdx) (nn : Byte) (s : State) : Host.Outcome State Fault Refusal :=
  writeReg x (s.reg x + nn) s

/-- `LD Vx, Vy` (R143). -/
def execLdReg (x y : RegIdx) (s : State) : Host.Outcome State Fault Refusal :=
  writeReg x (s.reg y) s

/-- `OR Vx, Vy` (R144). -/
def execOr (x y : RegIdx) (s : State) : Host.Outcome State Fault Refusal :=
  writeReg x (s.reg x ||| s.reg y) s

/-- `AND Vx, Vy` (R145). -/
def execAnd (x y : RegIdx) (s : State) : Host.Outcome State Fault Refusal :=
  writeReg x (s.reg x &&& s.reg y) s

/-- `XOR Vx, Vy` (R146). -/
def execXor (x y : RegIdx) (s : State) : Host.Outcome State Fault Refusal :=
  writeReg x (s.reg x ^^^ s.reg y) s

/-- `ADD Vx, Vy` (R148): `VF` is the carry. -/
def execAddReg (x y : RegIdx) (s : State) : Host.Outcome State Fault Refusal :=
  writeRegAndFlag x (s.reg x + s.reg y) (carryFlag (s.reg x) (s.reg y)) s

/-- `SUB Vx, Vy` (R149): `VF` is not-borrow of `Vx - Vy`. -/
def execSub (x y : RegIdx) (s : State) : Host.Outcome State Fault Refusal :=
  writeRegAndFlag x (s.reg x - s.reg y) (notBorrowFlag (s.reg x) (s.reg y)) s

/-- `SUBN Vx, Vy` (R152): `VF` is not-borrow of `Vy - Vx`. -/
def execSubn (x y : RegIdx) (s : State) : Host.Outcome State Fault Refusal :=
  writeRegAndFlag x (s.reg y - s.reg x) (notBorrowFlag (s.reg y) (s.reg x)) s

/-- `SHR Vx {, Vy}` (R151): `VF` is bit 0 of the shift source (R150). -/
def execShr (x y : RegIdx) (s : State) : Host.Outcome State Fault Refusal :=
  writeRegAndFlag x (s.shiftSource x y >>> 1) (shiftedOutRight (s.shiftSource x y)) s

/-- `SHL Vx {, Vy}` (R153): `VF` is bit 7 of the shift source (R150). -/
def execShl (x y : RegIdx) (s : State) : Host.Outcome State Fault Refusal :=
  writeRegAndFlag x (s.shiftSource x y <<< 1) (shiftedOutLeft (s.shiftSource x y)) s

end Sys2Proof.Machine
end

