-- ==== Sys2Proof/Machine/Control.lean ====
section
/-! DEFINITION. Control transfer (41_control.md): return, jumps, call and the register skips. -/

namespace Sys2Proof.Machine

/-- The end of a skip: `pc + 4` when its condition holds, `pc + 2` otherwise; the skipped word is not fetched (R124). -/
def skipIf (condition : Bool) (s : State) : Host.Outcome State Fault Refusal :=
  complete s (.ok s (if condition then .jump (s.pc + 4) else .advance) false)

/-- `RET` (R120): pops the return address into the PC, `StackUnderflow` on an empty stack. -/
def execRet (s : State) : Host.Outcome State Fault Refusal :=
  match s.stack.getLast? with
  | none => complete s (.err .stackUnderflow)
  | some target => complete s (.ok (s.setStack s.stack.dropLast) (.jump target) false)

/-- `JP NNN` (R121). -/
def execJp (nnn : BitVec 12) (s : State) : Host.Outcome State Fault Refusal :=
  complete s (.ok s (.jump (addressOperand nnn)) false)

/-- `JP V0, NNN` (R122): the offset register is always `V0`. -/
def execJpV0 (nnn : BitVec 12) (s : State) : Host.Outcome State Fault Refusal :=
  complete s (.ok s (.jump (addressOperand nnn + s.wideReg 0)) false)

/-- `CALL NNN` (R123): pushes `pc + 2`, `StackOverflow` when the stack holds 16 addresses. -/
def execCall (nnn : BitVec 12) (s : State) : Host.Outcome State Fault Refusal :=
  if s.stack.length < 16 then
    complete s (.ok (s.setStack (s.stack ++ [s.pc + 2])) (.jump (addressOperand nnn)) false)
  else complete s (.err .stackOverflow)

/-- `SE Vx, NN` (R125). -/
def execSeImm (x : RegIdx) (nn : Byte) (s : State) : Host.Outcome State Fault Refusal :=
  skipIf (s.reg x == nn) s

/-- `SNE Vx, NN` (R126). -/
def execSneImm (x : RegIdx) (nn : Byte) (s : State) : Host.Outcome State Fault Refusal :=
  skipIf (s.reg x != nn) s

/-- `SE Vx, Vy` (R127). -/
def execSeReg (x y : RegIdx) (s : State) : Host.Outcome State Fault Refusal :=
  skipIf (s.reg x == s.reg y) s

/-- `SNE Vx, Vy` (R128). -/
def execSneReg (x y : RegIdx) (s : State) : Host.Outcome State Fault Refusal :=
  skipIf (s.reg x != s.reg y) s

end Sys2Proof.Machine
end

