-- ==== Sys2Proof/Machine/Display.lean ====
section
/-! DEFINITION. Clear screen, draw sprite, random (44_display_random.md). -/

namespace Sys2Proof.Machine

/-- `CLS` (R190): clears the framebuffer and marks the display dirty. -/
def execCls (s : State) : Host.Outcome State Fault Refusal :=
  complete s (.ok (s.setFb Framebuffer.clear) .advance true)

/-- `DRW Vx, Vy, N` (R191, R192): the coordinates are read first, all addresses are checked first, `VF` is written last. -/
def execDrw (x y : RegIdx) (n : Fin 16) (s : State) : Host.Outcome State Fault Refusal :=
  match firstBad readable s.i.toNat n.val with
  | some a => complete s (.err (.outOfBoundsAccess a))
  | none =>
    let drawn := drawRows (s.reg x) (s.reg y) 0 (s.readBytes s.i.toNat n.val) (s.fb, false)
    complete s (.ok ((s.setFb drawn.1).setReg 15 (collisionFlag drawn.2)) .advance true)

/-- `RND Vx, NN` (R193): one free draw, under the mask. -/
def execRnd (x : RegIdx) (nn : Byte) (s : State) : Host.Outcome State Fault Refusal :=
  complete s (.ok (s.countDraw.setReg x (s.nextDraw &&& nn)) .advance false)

end Sys2Proof.Machine
end

