-- ==== Sys2Proof/Machine/IndexMemory.lean ====
section
/-! DEFINITION. The index register and the memory transfers (43_index_memory.md). Every address is checked before the first
write (R106); an error is `OutOfBoundsAccess` with the first offending address (R55, R56). -/

namespace Sys2Proof.Machine

/-- `LD I, NNN` (R170). -/
def execLdI (nnn : BitVec 12) (s : State) : Host.Outcome State Fault Refusal :=
  complete s (.ok (s.setIndex (addressOperand nnn)) .advance false)

/-- `ADD I, Vx` (R171): the sum wraps at 16 bits; under `index_overflow_flag` `VF` tells whether it passes 0x0FFF. -/
def execAddI (x : RegIdx) (s : State) : Host.Outcome State Fault Refusal :=
  complete s (.ok
    (if s.config.quirks.indexOverflowFlag then
      (s.setIndex (s.i + s.wideReg x)).setReg 15 (indexOverflow s.i (s.reg x))
    else s.setIndex (s.i + s.wideReg x))
    .advance false)

/-- `LD F, Vx` (R172). -/
def execLdF (x : RegIdx) (s : State) : Host.Outcome State Fault Refusal :=
  complete s (.ok (s.setIndex (glyphAddress s.config (s.reg x))) .advance false)

/-- `LD B, Vx` (R173): the decimal digits to `I`, `I+1`, `I+2`. -/
def execLdB (x : RegIdx) (s : State) : Host.Outcome State Fault Refusal :=
  match firstBad writable s.i.toNat 3 with
  | some a => complete s (.err (.outOfBoundsAccess a))
  | none => complete s (.ok (s.writeBytes s.i.toNat (decimalDigits (s.reg x))) .advance false)

/-- `LD [I], Vx` (R174): `V0` to `Vx` to `I` up, and the index of R176. -/
def execLdMemVx (x : RegIdx) (s : State) : Host.Outcome State Fault Refusal :=
  match firstBad writable s.i.toNat (blockSize x) with
  | some a => complete s (.err (.outOfBoundsAccess a))
  | none =>
    complete s (.ok ((s.writeBytes s.i.toNat ((blockRegs x).map s.reg)).setIndex (s.indexAfterBlock x)) .advance false)

/-- `LD Vx, [I]` (R175): `V0` to `Vx` from `I` up, and the index of R176. -/
def execLdVxMem (x : RegIdx) (s : State) : Host.Outcome State Fault Refusal :=
  match firstBad readable s.i.toNat (blockSize x) with
  | some a => complete s (.err (.outOfBoundsAccess a))
  | none => complete s (.ok ((s.loadBlock x).setIndex (s.indexAfterBlock x)) .advance false)

end Sys2Proof.Machine
end

