-- ==== Sys2Proof/Machine/InputTimers.lean ====
section
/-! DEFINITION. Key skips, the wait for a key, and the timer transfers (45_input_timers.md). -/

namespace Sys2Proof.Machine

/-- `SKP Vx` (R210). -/
def execSkp (x : RegIdx) (s : State) : Host.Outcome State Fault Refusal :=
  skipIf (s.keyNamedBy x) s

/-- `SKNP Vx` (R211). -/
def execSknp (x : RegIdx) (s : State) : Host.Outcome State Fault Refusal :=
  skipIf (!s.keyNamedBy x) s

/-- `LD Vx, K` (R212): the PC stays and the mode becomes `AwaitingKey(x)`; a key update completes it (R265). -/
def execLdVxK (x : RegIdx) (s : State) : Host.Outcome State Fault Refusal :=
  complete s (.ok s (.awaitKey x) false)

/-- `LD Vx, DT` (R213). -/
def execLdVxDt (x : RegIdx) (s : State) : Host.Outcome State Fault Refusal :=
  complete s (.ok (s.setReg x s.dt) .advance false)

/-- `LD DT, Vx` (R214). -/
def execLdDtVx (x : RegIdx) (s : State) : Host.Outcome State Fault Refusal :=
  complete s (.ok (s.setDelay (s.reg x)) .advance false)

/-- `LD ST, Vx` (R215), with the notification of R258 when the level changes. -/
def execLdStVx (x : RegIdx) (s : State) : Host.Outcome State Fault Refusal :=
  complete s (.ok (s.setSound (s.reg x)) .advance false)

end Sys2Proof.Machine
end

