-- ==== Sys2Proof/Machine/System.lean ====
section
/-! DEFINITION. `SYS` and the unrecognized words (46_unrecognized.md). -/

namespace Sys2Proof.Machine

/-- `Unrecognized(w)` (R231): the error is reported and nothing else happens. -/
def execUnrecognized (w : Word) (s : State) : Host.Outcome State Fault Refusal :=
  complete s (.err (.unrecognizedOpcode w))

/-- `SYS NNN` (R230): no executor mapping, so the error of its own word is reported. -/
def execSys (nnn : BitVec 12) (s : State) : Host.Outcome State Fault Refusal :=
  complete s (.err (.unrecognizedOpcode (encode (.sys nnn))))

end Sys2Proof.Machine
end

