-- ==== Sys2Proof/Machine/Events.lean ====
section
/-! DEFINITION. The events of the agents other than the executor: tick, key update, present, reset and load. -/

namespace Sys2Proof.Machine

/-- A timer one tick later, clamped to 0 (R27, R255). -/
def timerAfterTick (b : Byte) : Byte := BitVec.ofNat 8 (b.toNat - 1)

/-- A tick (R255): both timers in the same event, with the notification of R258. In mode `Halted` no tick happens (R257). -/
def State.tick (s : State) : State :=
  match s.mode with
  | .halted _ => s
  | .running | .awaitingKey _ => (s.setDelay (timerAfterTick s.dt)).setSound (timerAfterTick s.st)

/-- The lowest key that was up in the old snapshot and is down in the new one (R265). -/
def lowestEdge (old new : Keys) : Option KeyIdx := (List.finRange 16).find? (fun k => !old[k] && new[k])

/-- A key update (R264, R265): the snapshot is replaced, and an edge completes a waiting `FX0A`. -/
def State.keyUpdate (s : State) (new : Keys) : State :=
  match s.mode, lowestEdge s.keys new with
  | .awaitingKey x, some k =>
    ((({ s with keys := new } : State).setReg x (BitVec.ofNat 8 k.val)).setPc (s.pc + 2)).setMode .running
  | .awaitingKey _, none | .running, _ | .halted _, _ => { s with keys := new }

/-- What the renderer sees of the core: the framebuffer and the dirty flag (R262). -/
def State.presented (s : State) : Framebuffer × Bool := (s.fb, s.displayDirty)

/-- A present event: the renderer has read and clears the dirty flag (R262). -/
def State.present (s : State) : State := { s with displayDirty := false }

/-- The room for a program, 0x200 to 0xFFF (R284). -/
def maxProgram : Nat := 3584

/-- The reset operation `reset(s, program)` (R280). `keys` and `config` stay (R280, R281); the sound goes off with its
notification (R258). What the model keeps beside the machine, the output records, `draws` and `schedule`, stays (log 24). -/
def State.resetWith (s : State) (program : List Byte) : State :=
  (({ s with
      v := .replicate 16 0
      i := 0
      pc := 0x200
      stack := []
      dt := 0
      fb := Framebuffer.clear
      displayDirty := true
      mode := .running
      mem := [] } : State).setSound 0).writeBytes 0x200 program

/-- The loader: `reset(s, program)` (R283), or a refusal when the program does not fit (R284). -/
def State.loadProgram (s : State) (program : List Byte) : Host.Outcome State Fault Refusal :=
  if program.length ≤ maxProgram then .next (s.resetWith program) else .refused (.programTooLong program.length)

end Sys2Proof.Machine
end

