-- ==== Sys2Proof/Machine/Scheduler.lean ====
section
/-! DEFINITION. The executor's turn (R100, R109) and the events of every agent (R247, R252). -/

namespace Sys2Proof.Machine

/-- The execution of a descriptor: an instruction by `exec`, an unrecognized word by R231. -/
def execDescriptor (d : Descriptor) (s : State) : Host.Outcome State Fault Refusal :=
  match d with
  | .instr i => exec i s
  | .unrecognized w => execUnrecognized w s

/-- One step of the executor: fetch, decode, execute, apply (R100). An error of the fetch goes to apply, with no decode (R107). -/
def executorStep (s : State) : Host.Outcome State Fault Refusal :=
  match s.fetch with
  | .error e => complete s (.err e)
  | .ok w => execDescriptor (decode w) s

/-- The executor's turn. A step is enabled in mode `Running` only (R100). While a key is awaited the scheduler skips
instruction execution (R109, R261; log 5). A halted run is over (R109, R269; log 6). -/
def executorTurn (s : State) : Host.Outcome State Fault Refusal :=
  match s.mode with
  | .running => executorStep s
  | .awaitingKey _ => .next s
  | .halted e => .fault (.halted e)

/-- One event of one agent (R247, R252). -/
def runEvent (e : Event) (s : State) : Host.Outcome State Fault Refusal :=
  match e with
  | .step => executorTurn s
  | .tick => .next s.tick
  | .keyUpdate new => .next (s.keyUpdate new)
  | .present => .next s.present
  | .reset program => s.loadProgram program
  | .stop => .fault .hostStopped

/-- The next event of the run: the first of the schedule, or a step when nothing is listed (log 4). -/
def nextEvent (s : State) : Host.Outcome State Fault Refusal :=
  match s.schedule with
  | [] => executorTurn s
  | e :: rest => runEvent e { s with schedule := rest }

/-- The address a word is placed at so that the next fetch succeeds: the PC, or the entry point where the two bytes at the PC
do not both exist (R107; log 9). -/
def fetchAddress (s : State) : Word := if s.pc.toNat + 1 < 0x1000 then s.pc else 0x200

/-- The machine ready to fetch `w` in its very next step: `w` in memory at the PC, mode `Running`, nothing scheduled (log 9). -/
def State.placeWord (s : State) (w : Word) : State :=
  (({ s with pc := fetchAddress s, mode := .running, schedule := [] } : State).writeByte
      (fetchAddress s).toNat (highByte w)).writeByte ((fetchAddress s).toNat + 1) (lowByte w)

end Sys2Proof.Machine
end

