-- ==== Sys2Proof/Machine/Step.lean ====
section
/-! DEFINITION. The step of the machine: one event of the run (R247). -/

namespace Sys2Proof.Machine

/-- One event of the run: a step of the executor unless another agent's event is scheduled first. -/
def step (s : State) : Host.Outcome State Fault Refusal := nextEvent s

/-- `s` with an instruction, given in the opcode table's numbering, stored where `step` fetches its next one (log 9). -/
def State.withFetchWord (s : State) (nbits w : Nat) : State := s.placeWord (tableWord nbits w)

end Sys2Proof.Machine
end

