-- ==== Sys2Proof/Safety.lean ====
section
/-! DEFINITION. The terms claims are stated in: the invariant of the machine, frames, sprites as sets of pixels, runs as
sequences of events, and the 60 Hz cadence. -/

namespace Sys2Proof.Machine

/-! ### The invariant -/

/-- What every event keeps: memory in its canonical form (log 19), no listed address in the reserved region 0x000 to 0x1FF
(R51, R56), at most 16 return addresses (R26), and the last notification the audio device had is the level `sound_on` (R258;
off before the first). -/
structure State.Inv (s : State) : Prop where
  memory : Memory.wf s.config.resetByte s.mem
  reserved : ∀ c ∈ s.mem, 0x200 ≤ c.1
  depth : s.stack.length ≤ 16
  sound : s.soundNotes.headD false = s.soundOn

/-! ### Frames: which parts of the machine two states share -/

/-- Every byte of memory reads the same. -/
def SameMemory (s t : State) : Prop := ∀ a, t.readByte a = s.readByte a

/-- Every general register reads the same. -/
def SameRegs (s t : State) : Prop := ∀ r, t.reg r = s.reg r

/-- Both timers hold the same, and no sound notification was made. -/
def SameTimers (s t : State) : Prop := t.dt = s.dt ∧ t.st = s.st ∧ t.soundNotes = s.soundNotes

/-- The framebuffer and the dirty flag are the same. -/
def SameDisplay (s t : State) : Prop := t.fb = s.fb ∧ t.displayDirty = s.displayDirty

/-- The configuration, the keys, the mode, the error reports, the draws and the schedule are the same. -/
def SameControl (s t : State) : Prop :=
  t.config = s.config ∧ t.keys = s.keys ∧ t.mode = s.mode ∧ t.reports = s.reports ∧ t.draws = s.draws ∧
    t.schedule = s.schedule

/-- Everything is the same but, perhaps, the general registers and the PC. -/
def SameButRegsPc (s t : State) : Prop :=
  t.i = s.i ∧ t.stack = s.stack ∧ SameTimers s t ∧ SameDisplay s t ∧ SameMemory s t ∧ SameControl s t

/-- The state after the report of an error `e` by the instruction at `s.pc` (R108, R242): the report is surfaced, the scheduler
halts on the instruction or continues behind it, and everything else is the same. -/
def ErrorTaken (e : MachineError) (s t : State) : Prop :=
  t.reports = { error := e, pc := s.pc } :: s.reports ∧
  (if s.config.haltOnError = true ∨ (∃ w, e = .unrecognizedOpcode w) ∧ s.config.unrecognizedAdvances = false
    then t.mode = .halted e ∧ t.pc = s.pc
    else t.mode = s.mode ∧ t.pc = s.pc + 2) ∧
  SameRegs s t ∧ t.i = s.i ∧ t.stack = s.stack ∧ SameTimers s t ∧ SameDisplay s t ∧ SameMemory s t ∧
  t.config = s.config ∧ t.keys = s.keys ∧ t.draws = s.draws ∧ t.schedule = s.schedule

/-- An instruction does this to the machine: it goes on to a state in which the general registers read as `regs` says, the PC
is behind the instruction, and everything else is the same. -/
def WritesRegs (i : Instr) (s : State) (regs : RegIdx → Byte → Prop) : Prop :=
  ∃ t, exec i s = .next t ∧ (∀ q, regs q (t.reg q)) ∧ t.pc = s.pc + 2 ∧ SameButRegsPc s t

/-- A skip under a condition: the PC goes two instructions on when it holds and one otherwise, and everything else is the same
(R124). -/
def SkipsWhen (i : Instr) (s : State) (condition : Prop) : Prop :=
  ∃ t, exec i s = .next t ∧ (condition → t.pc = s.pc + 4) ∧ (¬ condition → t.pc = s.pc + 2) ∧ SameRegs s t ∧
    SameButRegsPc s t

/-- The instruction fails with an error: it reports it and does nothing else (R106, R108). -/
def FailsWith (i : Instr) (s : State) (e : MachineError) : Prop := ∃ t, exec i s = .next t ∧ ErrorTaken e s t

/-- The instructions that may write `VF` (R22): those of the table, the last under its quirk, and those that name `VF` as
their destination. -/
def mayWriteFlag (c : Config) : Instr → Prop
  | .addReg _ _ | .sub _ _ | .shr _ _ | .subn _ _ | .shl _ _ | .drw _ _ _ => True
  | .addI _ => c.quirks.indexOverflowFlag = true
  | .ldImm x _ | .addImm x _ | .ldReg x _ | .or x _ | .and x _ | .xor x _ | .rnd x _ | .ldVxDt x | .ldVxMem x => x = 15
  | .cls | .ret | .sys _ | .jp _ | .call _ | .seImm _ _ | .sneImm _ _ | .seReg _ _ | .sneReg _ _ | .ldI _ | .jpV0 _
  | .skp _ | .sknp _ | .ldVxK _ | .ldDtVx _ | .ldStVx _ | .ldF _ | .ldB _ | .ldMemVx _ => False

/-! ### Sprites -/

/-- The sprite of `DXYN` at `I`, drawn at the coordinates in `Vx` and `Vy`, has a set bit that lands on the pixel (R191). -/
def SpriteCovers (s : State) (x y : RegIdx) (n : Fin 16) (px : Fin 64) (py : Fin 32) : Prop :=
  ∃ r c : Nat, r < n.val ∧ c < 8 ∧ px.val = ((s.reg x).toNat + c) % 64 ∧ py.val = ((s.reg y).toNat + r) % 32 ∧
    (s.readByte (s.i.toNat + r)).getLsbD (7 - c) = true

/-- `a` is the first offending address, in increasing order, of an access to `count` bytes from `base` up (R55, R243). -/
def FirstOffending (allowed : Nat → Prop) (base count a : Nat) : Prop :=
  base ≤ a ∧ a < base + count ∧ ¬ allowed a ∧ ∀ b, base ≤ b → b < a → allowed b

/-! ### Runs -/

/-- The events of a list one after the other (R247), from a machine that decides nothing itself. -/
def play : List Event → State → Host.Outcome State Fault Refusal
  | [], s => .next s
  | e :: es, s =>
    match runEvent e s with
    | .next t => play es t
    | .fault f => .fault f
    | .refused r => .refused r

/-- Instructions executed one after the other, each where the one before it left the PC. -/
def execAll : List Instr → State → Host.Outcome State Fault Refusal
  | [], s => .next s
  | i :: is, s =>
    match exec i s with
    | .next t => execAll is t
    | .fault f => .fault f
    | .refused r => .refused r

/-- No event of the run but a tick can change `DT`: no reset, no stop, no event in mode `Halted` (R257), and no step that
fetches a word of `FX15`. -/
def DelayLeftToTicks : List Event → State → Prop
  | [], _ => True
  | e :: es, s =>
    (∀ program, e ≠ .reset program) ∧ e ≠ .stop ∧ (∀ er, s.mode ≠ .halted er) ∧
    (e = .step → s.mode = .running → ∀ w x, s.fetch = .ok w → decode w ≠ .instr (.ldDtVx x)) ∧
    ∀ t, runEvent e s = .next t → DelayLeftToTicks es t

/-- How many events of a timed run between the times `a` and `b` (`b` not included) are of a kind. -/
def eventsBetween (kind : Event → Bool) (run : List (Nat × Event)) (a b : Nat) : Nat :=
  run.countP (fun te => kind te.2 && decide (a ≤ te.1) && decide (te.1 < b))

/-- A cadence of `rate` events a second, on a timed run of `duration` units of which `second` make a second: in every stretch
of `d` units the number of events is `floor (rate * t)` or `ceil (rate * t)` for the `t = d / second` it lasts (R256). -/
def Cadence (kind : Event → Bool) (rate second duration : Nat) (run : List (Nat × Event)) : Prop :=
  ∀ a d, a + d ≤ duration →
    eventsBetween kind run a (a + d) = rate * d / second ∨
    eventsBetween kind run a (a + d) = (rate * d + second - 1) / second

/-- The premise of R256: 60 ticks a second, at whatever instruction rate. -/
def TickCadence (second duration : Nat) (run : List (Nat × Event)) : Prop :=
  Cadence (fun e => decide (e = .tick)) 60 second duration run

/-- The instruction cadence of R259, for the open parameter `ips`. No rule depends on it. -/
def StepCadence (ips second duration : Nat) (run : List (Nat × Event)) : Prop :=
  Cadence (fun e => decide (e = .step)) ips second duration run

end Sys2Proof.Machine
end

