-- ==== Sys2Proof/Certificates/Slice0/Obligations.lean ====
section
/-! DEFINITION. The statements for the provers, from the spec's numbered rules. A statement that rests on a decision the spec
marks as its own, or on a choice of the model, says so and names the log entry. -/

open Sys2Proof Sys2Proof.Machine

/-! ### Encoding -/

/-- Words written out from the encodings of 30_encoding.md decode to the instructions they stand for. The patterns other than
`00E0`, `6XNN`, `7XNN` are the spec's general knowledge (log 10). -/
def Obligations.WordsOfTheSpecDecode : Prop :=
  decode 0x00E0 = .instr .cls ∧ decode 0x00E1 = .instr (.sys 0x0E1) ∧ decode 0x6005 = .instr (.ldImm 0 0x05) ∧
  decode 0x7003 = .instr (.addImm 0 0x03) ∧ decode 0x8ABE = .instr (.shl 0xA 0xB) ∧
  decode 0xB123 = .instr (.jpV0 0x123) ∧ decode 0xD120 = .instr (.drw 1 2 0) ∧ decode 0xE19E = .instr (.skp 1) ∧
  decode 0xFF65 = .instr (.ldVxMem 0xF) ∧ decode 0x5121 = .unrecognized 0x5121 ∧ decode 0xF108 = .unrecognized 0xF108

/-- Every well-formed instruction comes back from its word, with every operand at every value (the encodings are the spec's
general knowledge, log 10). -/
def Obligations.DecodeOfEncodeIsTheInstruction : Prop :=
  ∀ i : Instr, i.wellFormed = true → decode (encode i) = .instr i

/-- R76's round trip, which the spec marks as derived: every 16-bit word comes back from its descriptor. -/
def Obligations.EncodeOfDecodeIsTheWord : Prop :=
  ∀ w : Word, (decode w).encode = w

/-- R77's list, which the spec marks as derived and whose strictness is its decision D4 (log 10): exactly these words are
unrecognized. -/
def Obligations.UnrecognizedWordsAreExactlyTheListed : Prop :=
  ∀ w : Word, decode w = .unrecognized w ↔
    (w.extractLsb' 12 4 = 0x5 ∧ w.extractLsb' 0 4 ≠ 0x0) ∨
    (w.extractLsb' 12 4 = 0x8 ∧ w.extractLsb' 0 4 ∈ ([0x8, 0x9, 0xA, 0xB, 0xC, 0xD, 0xF] : List (BitVec 4))) ∨
    (w.extractLsb' 12 4 = 0x9 ∧ w.extractLsb' 0 4 ≠ 0x0) ∨
    (w.extractLsb' 12 4 = 0xE ∧ w.extractLsb' 0 8 ∉ ([0x9E, 0xA1] : List (BitVec 8))) ∨
    (w.extractLsb' 12 4 = 0xF ∧
      w.extractLsb' 0 8 ∉ ([0x07, 0x0A, 0x15, 0x18, 0x1E, 0x29, 0x33, 0x55, 0x65] : List (BitVec 8)))

/-- What the decoder gives is well formed: `SYS` is never the word of `CLS` or `RET` (R75's order; the patterns are general
knowledge, log 10). -/
def Obligations.DecodedInstructionsAreWellFormed : Prop :=
  ∀ (w : Word) (i : Instr), decode w = .instr i → i.wellFormed = true

/-! ### The step -/

/-- When the bytes at the PC decode to a well-formed instruction and it is the executor's turn (nothing scheduled, or a step
scheduled first), the step is `exec` of that instruction. Nothing else is added around `exec`. The schedule is the model's own
(log 4). -/
def Obligations.StepRunsTheDecodedInstruction : Prop :=
  ∀ (s : State) (i : Instr) (rest : List Event), s.mode = .running → s.pc.toNat + 1 < 0x1000 →
    decodeBytes [s.readByte s.pc.toNat, s.readByte (s.pc.toNat + 1)] = .ok (i, []) → i.wellFormed = true →
    (s.schedule = [] → step s = exec i s) ∧
    (s.schedule = .step :: rest → step s = exec i { s with schedule := rest })

/-- A fetch that leaves memory is reported with its first address that does not exist, and nothing is executed (R107, which the
spec marks as derived; the policy after the report is its decisions D14 to D16, log 12). -/
def Obligations.FetchOutsideMemoryIsReported : Prop :=
  ∀ s : State, s.mode = .running → s.schedule = [] → 0xFFF ≤ s.pc.toNat →
    ∃ t, step s = .next t ∧
      ErrorTaken (.outOfBoundsAccess (if s.pc.toNat = 0xFFF then 0x1000 else s.pc.toNat)) s t

/-- An unrecognized word at the PC is reported with the word and the PC, and nothing else happens (R231, R232; the contents of
the report and the policy after it are the spec's decisions D14, D15, D37, log 12). -/
def Obligations.UnrecognizedWordIsReported : Prop :=
  ∀ (s : State) (w : Word), s.mode = .running → s.schedule = [] → s.pc.toNat + 1 < 0x1000 →
    decode (wordOfBytes (s.readByte s.pc.toNat) (s.readByte (s.pc.toNat + 1))) = .unrecognized w →
    ∃ t, step s = .next t ∧ ErrorTaken (.unrecognizedOpcode w) s t

/-- `SYS` has no executor mapping: it reports its own word (R230; the spec's decision D3, log 10, and D14 to D16, log 12). -/
def Obligations.SysReportsItsOwnWord : Prop :=
  ∀ (nnn : BitVec 12) (s : State), FailsWith (.sys nnn) s (.unrecognizedOpcode (nnn.setWidth 16))

/-- An instruction that reports an error does nothing else, reports one error only, and only of its own kind (R106, R242, R243;
the spec's decision D16, log 12). -/
def Obligations.FailingInstructionsDoNothingElse : Prop :=
  ∀ (i : Instr) (s t : State), exec i s = .next t → t.reports = s.reports ∨
    ∃ e, ErrorTaken e s t ∧
      match e with
      | .unrecognizedOpcode _ => ∃ nnn, i = .sys nnn
      | .stackOverflow => ∃ nnn, i = .call nnn
      | .stackUnderflow => i = .ret
      | .outOfBoundsAccess _ => (∃ x y n, i = .drw x y n) ∨ ∃ x, i = .ldB x ∨ i = .ldMemVx x ∨ i = .ldVxMem x

/-- A step stops only when the run is over: a turn of the executor in mode Halted, or the host's stop; and it refuses only a
program that does not fit. That these are a fault and a refusal is the model's choice (logs 6 and 8). -/
def Obligations.StepsStopOnlyWhenTheRunIsOver : Prop :=
  ∀ s : State,
    (∀ f, step s = .fault f ↔
      ((s.schedule = [] ∨ ∃ rest, s.schedule = .step :: rest) ∧ ∃ e, s.mode = .halted e ∧ f = .halted e) ∨
      ((∃ rest, s.schedule = .stop :: rest) ∧ f = .hostStopped)) ∧
    (∀ r, step s = .refused r ↔
      ∃ program rest, s.schedule = .reset program :: rest ∧ 3584 < program.length ∧
        r = .programTooLong program.length)

/-! ### Memory -/

/-- The storage law behind R58: a read of the model's memory gives the last write to its address, or the reset contents where nothing was written, and the events of the
other agents (all but a step and a reset) neither change what memory reads as nor depend on it. That memory is a canonical list
whose unlisted addresses read as the reset contents is the model's choice (log 19). What each instruction and the fetch read is
said where each is. -/
def Obligations.ReadsSeeTheLastWrite : Prop :=
  ∀ s : State, s.Inv →
    (∀ (a : Nat) (b : Byte) (c : Nat), (s.writeByte a b).readByte c = if c = a then b else s.readByte c) ∧
    (s.mem = [] → ∀ a, s.readByte a = s.config.resetByte a) ∧
    (∀ (e : Event) (t : State), e ≠ .step → (∀ program, e ≠ .reset program) → runEvent e s = .next t →
      SameMemory s t ∧ ∀ m : Memory, runEvent e { s with mem := m } = .next { t with mem := m })

/-- R60's self-modifying code, which the spec marks as derived and as its decision D32 (log 13): the word stored at the PC is
the one the next step runs. -/
def Obligations.TheNextFetchSeesTheStoredWord : Prop :=
  ∀ (s u : State) (w : Word), s.Inv → s.mode = .running → s.schedule = [] → s.pc.toNat + 1 < 0x1000 →
    u = (s.writeByte s.pc.toNat (w.extractLsb' 8 8)).writeByte (s.pc.toNat + 1) (w.extractLsb' 0 8) →
    step u = execDescriptor (decode w) u

/-! ### Control transfer -/

/-- `RET` on a stack that holds an address (R120): the top goes to the PC, and nothing but the stack and the PC changes. -/
def Obligations.ReturnPopsTheTop : Prop :=
  ∀ (s : State) (below : List Word) (top : Word), s.stack = below ++ [top] →
    ∃ t, exec .ret s = .next t ∧ t.stack = below ∧ t.pc = top ∧ SameRegs s t ∧ t.i = s.i ∧ SameTimers s t ∧
      SameDisplay s t ∧ SameMemory s t ∧ SameControl s t

/-- `CALL` below depth 16 (R123): `pc + 2` is pushed, the target goes to the PC, and nothing else changes. -/
def Obligations.CallPushesTheReturnAddress : Prop :=
  ∀ (nnn : BitVec 12) (s : State), s.stack.length < 16 →
    ∃ t, exec (.call nnn) s = .next t ∧ t.stack = s.stack ++ [s.pc + 2] ∧ t.pc = nnn.setWidth 16 ∧ SameRegs s t ∧
      t.i = s.i ∧ SameTimers s t ∧ SameDisplay s t ∧ SameMemory s t ∧ SameControl s t

/-- `CALL` at depth 16 and `RET` at depth 0 report their errors and do nothing else (R120, R123; what follows the report is the
spec's decisions D15 and D16, log 12). -/
def Obligations.StackErrorsAreReported : Prop :=
  ∀ (nnn : BitVec 12) (s : State),
    (s.stack.length = 16 → FailsWith (.call nnn) s .stackOverflow) ∧
    (s.stack = [] → FailsWith .ret s .stackUnderflow)

/-- `JP` and `JP V0` set the PC, to any 12-bit address and to a sum that never wraps, and change nothing else (R121, R122; that
the register is `V0` is the spec's decision D20, log 16). -/
def Obligations.JumpsSetThePc : Prop :=
  ∀ (nnn : BitVec 12) (s : State),
    (∃ t, exec (.jp nnn) s = .next t ∧ t.pc.toNat = nnn.toNat ∧ SameRegs s t ∧ SameButRegsPc s t) ∧
    (∃ t, exec (.jpV0 nnn) s = .next t ∧ t.pc.toNat = nnn.toNat + (s.reg 0).toNat ∧ SameRegs s t ∧ SameButRegsPc s t)

/-- The six skips (R124 to R128, R210, R211): the condition of each, and that nothing but the PC changes. That the skipped word
is not fetched and that the low nibble names the key are the spec's decisions D36 and D12 (logs 13 and 17). -/
def Obligations.SkipsMoveThePcAlone : Prop :=
  ∀ (x y : RegIdx) (nn : Byte) (s : State),
    SkipsWhen (.seImm x nn) s (s.reg x = nn) ∧ SkipsWhen (.sneImm x nn) s (s.reg x ≠ nn) ∧
    SkipsWhen (.seReg x y) s (s.reg x = s.reg y) ∧ SkipsWhen (.sneReg x y) s (s.reg x ≠ s.reg y) ∧
    SkipsWhen (.skp x) s (s.keys[(s.reg x).toNat % 16] = true) ∧
    SkipsWhen (.sknp x) s (s.keys[(s.reg x).toNat % 16] = false)

/-- R129's law, which the spec marks as derived: calls nested within the stack's room and as many returns end behind the first
call with the stack as it was, and nothing else changes. -/
def Obligations.NestedCallsReturnToTheCaller : Prop :=
  ∀ (targets : List (BitVec 12)) (s : State), targets ≠ [] → s.stack.length + targets.length ≤ 16 →
    ∃ t, execAll (targets.map Instr.call ++ List.replicate targets.length Instr.ret) s = .next t ∧
      t.pc = s.pc + 2 ∧ t.stack = s.stack ∧ SameRegs s t ∧ SameButRegsPc s t

/-! ### Register loads and arithmetic -/

/-- R141 whole: the words of class 6, the loaded value, and that nothing else changes; `VF` only as the destination. -/
def Obligations.LoadImmediateWritesItsRegister : Prop :=
  (∀ w : Word, w.extractLsb' 12 4 = 0x6 →
    decode w = .instr (.ldImm (w.extractLsb' 8 4).toFin (w.extractLsb' 0 8))) ∧
  ∀ (x : RegIdx) (nn : Byte) (s : State),
    WritesRegs (.ldImm x nn) s (fun q v => v = if q = x then nn else s.reg q)

/-- R142 whole: the words of class 7, the sum modulo 256, and that no flag is touched, also where the sum exceeds 255. -/
def Obligations.AddImmediateWrapsWithoutFlag : Prop :=
  (∀ w : Word, w.extractLsb' 12 4 = 0x7 →
    decode w = .instr (.addImm (w.extractLsb' 8 4).toFin (w.extractLsb' 0 8))) ∧
  ∀ (x : RegIdx) (nn : Byte) (s : State),
    WritesRegs (.addImm x nn) s (fun q v =>
      v.toNat = if q = x then ((s.reg x).toNat + nn.toNat) % 256 else (s.reg q).toNat)

/-- The copy and the three bitwise operations (R143 to R146): bit by bit, with no flag effect. -/
def Obligations.CopyAndBitwiseWriteOneRegister : Prop :=
  ∀ (x y : RegIdx) (s : State),
    WritesRegs (.ldReg x y) s (fun q v => v = if q = x then s.reg y else s.reg q) ∧
    WritesRegs (.or x y) s (fun q v => ∀ k, v.getLsbD k =
      if q = x then (s.reg x).getLsbD k || (s.reg y).getLsbD k else (s.reg q).getLsbD k) ∧
    WritesRegs (.and x y) s (fun q v => ∀ k, v.getLsbD k =
      if q = x then (s.reg x).getLsbD k && (s.reg y).getLsbD k else (s.reg q).getLsbD k) ∧
    WritesRegs (.xor x y) s (fun q v => ∀ k, v.getLsbD k =
      if q = x then (s.reg x).getLsbD k ^^ (s.reg y).getLsbD k else (s.reg q).getLsbD k)

/-- `ADD Vx, Vy` (R148): the sum modulo 256 and the carry, from the old values, also where `Vx`, `Vy` and `VF` coincide. That
the flag wins when `X = 15` is the spec's decision D9 (log 11). -/
def Obligations.AddRegistersSetsTheCarry : Prop :=
  ∀ (x y : RegIdx) (s : State),
    WritesRegs (.addReg x y) s (fun q v => v.toNat =
      if q = 15 then (if (s.reg x).toNat + (s.reg y).toNat > 255 then 1 else 0)
      else if q = x then ((s.reg x).toNat + (s.reg y).toNat) % 256 else (s.reg q).toNat)

/-- `SUB` and `SUBN` (R149, R152): the difference modulo 256 and not-borrow, from the old values. That equal operands give 1 is
marked as derived by the spec, and that the flag wins when `X = 15` is its decision D9 (log 11). -/
def Obligations.SubtractionsSetNotBorrow : Prop :=
  ∀ (x y : RegIdx) (s : State),
    WritesRegs (.sub x y) s (fun q v => v.toNat =
      if q = 15 then (if (s.reg x).toNat ≥ (s.reg y).toNat then 1 else 0)
      else if q = x then (256 + (s.reg x).toNat - (s.reg y).toNat) % 256 else (s.reg q).toNat) ∧
    WritesRegs (.subn x y) s (fun q v => v.toNat =
      if q = 15 then (if (s.reg y).toNat ≥ (s.reg x).toNat then 1 else 0)
      else if q = x then (256 + (s.reg y).toNat - (s.reg x).toNat) % 256 else (s.reg q).toNat)

/-- `SHR` and `SHL` (R151, R153) under either value of `legacy_shift`: the shifted source and the bit shifted out. The source's
choice by the quirk and the shift by one bit are the spec's decision D6 (log 15), the flag's win its decision D9 (log 11). -/
def Obligations.ShiftsMoveOneBitIntoTheFlag : Prop :=
  ∀ (x y : RegIdx) (s : State) (source : Nat),
    source = (if s.config.quirks.legacyShift = true then (s.reg y).toNat else (s.reg x).toNat) →
    WritesRegs (.shr x y) s (fun q v => v.toNat =
      if q = 15 then source % 2 else if q = x then source / 2 else (s.reg q).toNat) ∧
    WritesRegs (.shl x y) s (fun q v => v.toNat =
      if q = 15 then source / 128 else if q = x then 2 * source % 256 else (s.reg q).toNat)

/-! ### The index register and memory transfers -/

/-- `LD I` and `LD F` (R170, R172): the index gets the address or the glyph's address, and nothing else changes. That the low
nibble selects the glyph is the spec's decision D11 (log 14). -/
def Obligations.IndexLoadsSetTheIndexAlone : Prop :=
  ∀ (nnn : BitVec 12) (x : RegIdx) (s : State),
    (∃ t, exec (.ldI nnn) s = .next t ∧ t.i.toNat = nnn.toNat ∧ t.pc = s.pc + 2 ∧ t.stack = s.stack ∧ SameRegs s t ∧
      SameTimers s t ∧ SameDisplay s t ∧ SameMemory s t ∧ SameControl s t) ∧
    (∃ t, exec (.ldF x) s = .next t ∧ t.i.toNat = s.config.fontBase.val + 5 * ((s.reg x).toNat % 16) ∧
      t.pc = s.pc + 2 ∧ t.stack = s.stack ∧ SameRegs s t ∧ SameTimers s t ∧ SameDisplay s t ∧ SameMemory s t ∧
      SameControl s t)

/-- `ADD I, Vx` (R171) under either value of the quirk: the sum modulo 2^16, and `VF` as the quirk says. The threshold 0x0FFF
and the write of 0 are the spec's decision D8 (log 15). -/
def Obligations.AddToIndexWrapsAndFlags : Prop :=
  ∀ (x : RegIdx) (s : State),
    ∃ t, exec (.addI x) s = .next t ∧ t.i.toNat = (s.i.toNat + (s.reg x).toNat) % 65536 ∧
      (∀ q, (t.reg q).toNat =
        if s.config.quirks.indexOverflowFlag = true ∧ q = 15 then
          (if s.i.toNat + (s.reg x).toNat > 0x0FFF then 1 else 0)
        else (s.reg q).toNat) ∧
      t.pc = s.pc + 2 ∧ t.stack = s.stack ∧ SameTimers s t ∧ SameDisplay s t ∧ SameMemory s t ∧ SameControl s t

/-- After `LD F` the five bytes at the index are the glyph's (R37, R172), whatever ran before: the font cannot be overwritten.
The spec's decisions D10, D11, D17 (logs 13 and 14). -/
def Obligations.TheIndexedGlyphIsIntact : Prop :=
  ∀ (x : RegIdx) (s : State), s.Inv →
    ∃ t, exec (.ldF x) s = .next t ∧
      ∀ k, k < 5 → s.config.fontGlyphs[5 * ((s.reg x).toNat % 16) + k]? = some (t.readByte (t.i.toNat + k))

/-- `LD B` inside program memory (R173): the three digits at `I`, `I+1`, `I+2`, and nothing else changes. The digit order is the
spec's decision D23 (log 16). -/
def Obligations.DecimalDigitsAreStored : Prop :=
  ∀ (x : RegIdx) (s : State), s.Inv → 0x200 ≤ s.i.toNat → s.i.toNat + 2 < 0x1000 →
    ∃ t, exec (.ldB x) s = .next t ∧
      (t.readByte s.i.toNat).toNat = (s.reg x).toNat / 100 ∧
      (t.readByte (s.i.toNat + 1)).toNat = (s.reg x).toNat / 10 % 10 ∧
      (t.readByte (s.i.toNat + 2)).toNat = (s.reg x).toNat % 10 ∧
      (∀ a, a < s.i.toNat ∨ s.i.toNat + 3 ≤ a → t.readByte a = s.readByte a) ∧
      t.pc = s.pc + 2 ∧ t.i = s.i ∧ t.stack = s.stack ∧ SameRegs s t ∧ SameTimers s t ∧ SameDisplay s t ∧ SameControl s t

/-- `LD [I], Vx` inside program memory (R174, R176), for every `x`: `V0` to `Vx` from `I` up, the index under either value of the
quirk, and nothing else changes. The amount of the increment is the spec's decision D7 (log 15). -/
def Obligations.BlockStoreWritesTheRegisters : Prop :=
  ∀ (x : RegIdx) (s : State), s.Inv → 0x200 ≤ s.i.toNat → s.i.toNat + x.val < 0x1000 →
    ∃ t, exec (.ldMemVx x) s = .next t ∧
      (∀ k : RegIdx, k ≤ x → t.readByte (s.i.toNat + k.val) = s.reg k) ∧
      (∀ a, a < s.i.toNat ∨ s.i.toNat + x.val < a → t.readByte a = s.readByte a) ∧
      t.i.toNat = (if s.config.quirks.incrementIndexOnBlockIo = true then (s.i.toNat + x.val + 1) % 65536 else s.i.toNat) ∧
      t.pc = s.pc + 2 ∧ t.stack = s.stack ∧ SameRegs s t ∧ SameTimers s t ∧ SameDisplay s t ∧ SameControl s t

/-- `LD Vx, [I]` inside memory (R175, R176), for every `x`: `V0` to `Vx` from `I` up, the index under either value of the quirk,
and nothing else changes. The amount of the increment is the spec's decision D7 (log 15). -/
def Obligations.BlockLoadReadsTheRegisters : Prop :=
  ∀ (x : RegIdx) (s : State), s.i.toNat + x.val < 0x1000 →
    ∃ t, exec (.ldVxMem x) s = .next t ∧
      (∀ q, t.reg q = if q ≤ x then s.readByte (s.i.toNat + q.val) else s.reg q) ∧
      t.i.toNat = (if s.config.quirks.incrementIndexOnBlockIo = true then (s.i.toNat + x.val + 1) % 65536 else s.i.toNat) ∧
      t.pc = s.pc + 2 ∧ t.stack = s.stack ∧ SameTimers s t ∧ SameDisplay s t ∧ SameMemory s t ∧ SameControl s t

/-- The four instructions that access memory report the first address that offends and do nothing else (R55, R56, R173 to R175,
R192). No wrap, the write protection and the reported address are the spec's decisions D17, D18, D35 (log 13); that nothing is written
in part and the policy after the report are its decisions D15 and D16 (log 12). -/
def Obligations.AccessErrorsNameTheFirstAddress : Prop :=
  ∀ (x y : RegIdx) (n : Fin 16) (s : State) (a : Nat),
    (FirstOffending (fun b => 0x200 ≤ b ∧ b < 0x1000) s.i.toNat 3 a → FailsWith (.ldB x) s (.outOfBoundsAccess a)) ∧
    (FirstOffending (fun b => 0x200 ≤ b ∧ b < 0x1000) s.i.toNat (x.val + 1) a →
      FailsWith (.ldMemVx x) s (.outOfBoundsAccess a)) ∧
    (FirstOffending (fun b => b < 0x1000) s.i.toNat (x.val + 1) a → FailsWith (.ldVxMem x) s (.outOfBoundsAccess a)) ∧
    (FirstOffending (fun b => b < 0x1000) s.i.toNat n.val a → FailsWith (.drw x y n) s (.outOfBoundsAccess a))

/-! ### Display and random -/

/-- `CLS` (R190): every pixel is clear, the display is dirty, and nothing else changes. That a clear screen is marked dirty again
is the spec's decision D43 (log 18). -/
def Obligations.ClearScreenClearsEveryPixel : Prop :=
  ∀ s : State, ∃ t, exec .cls s = .next t ∧ (∀ px py, Framebuffer.pixel t.fb px py = false) ∧ t.displayDirty = true ∧
    t.pc = s.pc + 2 ∧ t.i = s.i ∧ t.stack = s.stack ∧ SameRegs s t ∧ SameTimers s t ∧ SameMemory s t ∧ SameControl s t

/-- `DRW` with its bytes inside memory (R191, R192), for every height (height 0 reads no byte, so any index will do): the pixels the sprite covers are flipped and no other
changes, `VF` says whether a set pixel was covered, the display is dirty, and nothing else changes. The loop over sprite pixels
equals this closed form because a sprite covers no pixel twice. Bit order and `N = 0` are the spec's decision D21 (log 16), the
flag's win D9 (log 11). -/
def Obligations.DrawFlipsTheCoveredPixels : Prop :=
  ∀ (x y : RegIdx) (n : Fin 16) (s : State), (∀ r, r < n.val → s.i.toNat + r < 0x1000) →
    ∃ t, exec (.drw x y n) s = .next t ∧
      (∀ px py, SpriteCovers s x y n px py → Framebuffer.pixel t.fb px py = !Framebuffer.pixel s.fb px py) ∧
      (∀ px py, ¬ SpriteCovers s x y n px py → Framebuffer.pixel t.fb px py = Framebuffer.pixel s.fb px py) ∧
      ((∃ px py, SpriteCovers s x y n px py ∧ Framebuffer.pixel s.fb px py = true) → t.reg 15 = 1) ∧
      ((∀ px py, SpriteCovers s x y n px py → Framebuffer.pixel s.fb px py = false) → t.reg 15 = 0) ∧
      (∀ q, q ≠ 15 → t.reg q = s.reg q) ∧ t.displayDirty = true ∧ t.pc = s.pc + 2 ∧ t.i = s.i ∧ t.stack = s.stack ∧
      SameTimers s t ∧ SameMemory s t ∧ SameControl s t

/-- R194's law, which the spec marks as derived: a sprite drawn twice at the same place, for every height, restores every pixel.
The second draw comes in any state that still has the framebuffer of the first, the index, the sprite's bytes, and the two
coordinates, in the same registers or in others (a first draw that writes its flag over its own coordinate is covered so). It
collides exactly when it covers a pixel that was clear before the first draw; where all its pixels were clear, that is when the
sprite has a set bit (log 22). -/
def Obligations.DrawingTwiceRestoresThePixels : Prop :=
  ∀ (x y x' y' : RegIdx) (n : Fin 16) (s t u : State), (∀ r, r < n.val → s.i.toNat + r < 0x1000) →
    exec (.drw x y n) s = .next t → u.fb = t.fb → u.i = s.i →
    (∀ r, r < n.val → u.readByte (s.i.toNat + r) = s.readByte (s.i.toNat + r)) →
    u.reg x' = s.reg x → u.reg y' = s.reg y →
    ∃ w, exec (.drw x' y' n) u = .next w ∧ w.fb = s.fb ∧
      (w.reg 15 = 1 ↔ ∃ px py, SpriteCovers s x y n px py ∧ Framebuffer.pixel s.fb px py = false) ∧
      ((∀ px py, SpriteCovers s x y n px py → Framebuffer.pixel s.fb px py = false) →
        (w.reg 15 = 1 ↔ ∃ px py, SpriteCovers s x y n px py))

/-- `RND` (R193): one draw, any byte, under the mask, and nothing else changes. The draw is a free value (log 3): the statement
holds whatever byte it is. -/
def Obligations.RandomIsOneDrawUnderTheMask : Prop :=
  ∀ (x : RegIdx) (nn : Byte) (s : State),
    ∃ t, exec (.rnd x nn) s = .next t ∧
      (∀ q k, (t.reg q).getLsbD k =
        if q = x then (Config.randomByte s.draws).getLsbD k && nn.getLsbD k else (s.reg q).getLsbD k) ∧
      t.draws = s.draws + 1 ∧ t.pc = s.pc + 2 ∧ t.i = s.i ∧ t.stack = s.stack ∧ SameTimers s t ∧ SameDisplay s t ∧
      SameMemory s t ∧ t.config = s.config ∧ t.keys = s.keys ∧ t.mode = s.mode ∧ t.reports = s.reports ∧
      t.schedule = s.schedule

/-! ### Keys and timers -/

/-- The timer transfers (R213 to R215): the value moved, the notification of `FX18` exactly when the level `sound_on` changes
(R258, the spec's decision D27, log 7), and nothing else changes. -/
def Obligations.TimerTransfersMoveTheValue : Prop :=
  ∀ (x : RegIdx) (s : State),
    WritesRegs (.ldVxDt x) s (fun q v => v = if q = x then s.dt else s.reg q) ∧
    (∃ t, exec (.ldDtVx x) s = .next t ∧ t.dt = s.reg x ∧ t.st = s.st ∧ t.soundNotes = s.soundNotes ∧ t.pc = s.pc + 2 ∧
      t.i = s.i ∧ t.stack = s.stack ∧ SameRegs s t ∧ SameDisplay s t ∧ SameMemory s t ∧ SameControl s t) ∧
    (∃ t, exec (.ldStVx x) s = .next t ∧ t.st = s.reg x ∧ t.dt = s.dt ∧
      t.soundNotes = (if (s.st = 0 ↔ s.reg x = 0) then s.soundNotes else decide (s.reg x ≠ 0) :: s.soundNotes) ∧
      t.pc = s.pc + 2 ∧ t.i = s.i ∧ t.stack = s.stack ∧ SameRegs s t ∧ SameDisplay s t ∧ SameMemory s t ∧ SameControl s t)

/-- `FX0A` (R212): the machine waits with the PC on the instruction, whatever keys are down, and nothing else changes. -/
def Obligations.WaitForKeyHoldsThePc : Prop :=
  ∀ (x : RegIdx) (s : State),
    ∃ t, exec (.ldVxK x) s = .next t ∧ t.mode = .awaitingKey x ∧ t.pc = s.pc ∧ SameRegs s t ∧ t.i = s.i ∧
      t.stack = s.stack ∧ SameTimers s t ∧ SameDisplay s t ∧ SameMemory s t ∧ t.config = s.config ∧ t.keys = s.keys ∧
      t.reports = s.reports ∧ t.draws = s.draws ∧ t.schedule = s.schedule

/-- A key update (R264, R265): the snapshot is replaced; the lowest key that goes down completes a wait, writes its number and
resumes behind `FX0A`; without an edge, or with no wait, nothing else changes. The lowest key, the PC and the edge between
snapshots are the spec's decisions D13 and D42 (log 17). -/
def Obligations.KeyUpdateCompletesTheWait : Prop :=
  ∀ (s : State) (new : Keys),
    (∀ (x : RegIdx) (k : KeyIdx), s.mode = .awaitingKey x → s.keys[k] = false → new[k] = true →
      (∀ j : KeyIdx, j < k → s.keys[j] = true ∨ new[j] = false) →
      ∃ t, runEvent (.keyUpdate new) s = .next t ∧ (∀ q, (t.reg q).toNat = if q = x then k.val else (s.reg q).toNat) ∧
        t.pc = s.pc + 2 ∧ t.mode = .running ∧ t.keys = new ∧
        t = { s with v := t.v, pc := t.pc, mode := t.mode, keys := t.keys }) ∧
    ((∀ j : KeyIdx, s.keys[j] = true ∨ new[j] = false) →
      runEvent (.keyUpdate new) s = .next { s with keys := new }) ∧
    ((∀ x, s.mode ≠ .awaitingKey x) → runEvent (.keyUpdate new) s = .next { s with keys := new })

/-! ### Events of the other agents -/

/-- R255 whole: a tick, in any mode but Halted, takes one off each timer, never below 0, notifies exactly when `sound_on`
changes, and touches nothing else. (For mode Halted see HaltedIsLeftByResetAlone.) -/
def Obligations.TickCountsBothTimersDown : Prop :=
  ∀ s : State, (∀ e, s.mode ≠ .halted e) →
    ∃ t, runEvent .tick s = .next t ∧ t.dt.toNat = s.dt.toNat - 1 ∧ t.st.toNat = s.st.toNat - 1 ∧
      t.soundNotes = (if (s.st = 0 ↔ t.st = 0) then s.soundNotes else decide (t.st ≠ 0) :: s.soundNotes) ∧
      t = { s with dt := t.dt, st := t.st, soundNotes := t.soundNotes }

/-- The reset event with a program that fits (R280, R283): every field as the rule says, the memory byte by byte, keys and
configuration kept, and the notification when the sound goes off. The values DL8 does not name are the spec's decisions D24, D38,
D43 (log 18); that the output records, the draws and the schedule stay is the model's choice (log 24). -/
def Obligations.ResetReinitialisesTheMachine : Prop :=
  ∀ (s : State) (program : List Byte), program.length ≤ 3584 →
    ∃ t, runEvent (.reset program) s = .next t ∧ (∀ q, t.reg q = 0) ∧ t.i = 0 ∧ t.pc = 0x200 ∧ t.stack = [] ∧ t.dt = 0 ∧
      t.st = 0 ∧ (∀ px py, Framebuffer.pixel t.fb px py = false) ∧ t.displayDirty = true ∧ t.mode = .running ∧
      t.keys = s.keys ∧ t.config = s.config ∧
      (∀ a, 0x200 ≤ a → a < 0x200 + program.length → program[a - 0x200]? = some (t.readByte a)) ∧
      (∀ k, k < 80 → s.config.fontGlyphs[k]? = some (t.readByte (s.config.fontBase.val + k))) ∧
      (∀ a, (a < s.config.fontBase.val ∨ s.config.fontBase.val + 80 ≤ a) → (a < 0x200 ∨ 0x200 + program.length ≤ a) →
        t.readByte a = 0) ∧
      t.soundNotes = (if s.st = 0 then s.soundNotes else false :: s.soundNotes) ∧ t.reports = s.reports ∧
      t.draws = s.draws ∧ t.schedule = s.schedule

/-- A program of more than 3,584 bytes is refused, and one of 3,584 is not (R284, the spec's decision D25; that the machine then
stops with a refusal is the model's choice, log 8). -/
def Obligations.ProgramsThatDoNotFitAreRefused : Prop :=
  ∀ (s : State) (program : List Byte),
    (3584 < program.length → runEvent (.reset program) s = .refused (.programTooLong program.length)) ∧
    (program.length = 3584 → ∃ t, runEvent (.reset program) s = .next t ∧ program[3583]? = some (t.readByte 0xFFF))

/-- A present event clears the dirty flag and changes nothing else (R262, the spec's decision D43, log 25). -/
def Obligations.PresentClearsTheDirtyFlag : Prop :=
  ∀ s : State, ∃ t, runEvent .present s = .next t ∧ t.displayDirty = false ∧ t = { s with displayDirty := t.displayDirty }

/-- What the machine holds right after reset with an empty program, every row of R39's table (R24, R28, R280, R282), and the font
of R38 with all its sixteen glyphs in order. I, the unused memory, the dirty flag, the keys and the mode are the spec's decisions
D24, D39 and D43 (logs 17 and 18); the glyphs are its general knowledge and their place its decision D10 (log 14). -/
def Obligations.ResetStateIsAsTheTableSays : Prop :=
  (∀ q, State.reset.reg q = 0) ∧ State.reset.i = 0 ∧ State.reset.pc = 0x200 ∧ State.reset.stack = [] ∧
  State.reset.dt = 0 ∧ State.reset.st = 0 ∧ (∀ px py, Framebuffer.pixel State.reset.fb px py = false) ∧
  State.reset.displayDirty = true ∧ (∀ k : KeyIdx, State.reset.keys[k] = false) ∧ State.reset.mode = .running ∧
  State.reset.soundOn = false ∧
  State.reset.readBytes 0x050 5 = [0xF0, 0x90, 0x90, 0x90, 0xF0] ∧ State.reset.readBytes 0x055 5 = [0x20, 0x60, 0x20, 0x20, 0x70] ∧
  State.reset.readBytes 0x05A 5 = [0xF0, 0x10, 0xF0, 0x80, 0xF0] ∧ State.reset.readBytes 0x05F 5 = [0xF0, 0x10, 0xF0, 0x10, 0xF0] ∧
  State.reset.readBytes 0x064 5 = [0x90, 0x90, 0xF0, 0x10, 0x10] ∧ State.reset.readBytes 0x069 5 = [0xF0, 0x80, 0xF0, 0x10, 0xF0] ∧
  State.reset.readBytes 0x06E 5 = [0xF0, 0x80, 0xF0, 0x90, 0xF0] ∧ State.reset.readBytes 0x073 5 = [0xF0, 0x10, 0x20, 0x40, 0x40] ∧
  State.reset.readBytes 0x078 5 = [0xF0, 0x90, 0xF0, 0x90, 0xF0] ∧ State.reset.readBytes 0x07D 5 = [0xF0, 0x90, 0xF0, 0x10, 0xF0] ∧
  State.reset.readBytes 0x082 5 = [0xF0, 0x90, 0xF0, 0x90, 0x90] ∧ State.reset.readBytes 0x087 5 = [0xE0, 0x90, 0xE0, 0x90, 0xE0] ∧
  State.reset.readBytes 0x08C 5 = [0xF0, 0x80, 0x80, 0x80, 0xF0] ∧ State.reset.readBytes 0x091 5 = [0xE0, 0x90, 0x90, 0x90, 0xE0] ∧
  State.reset.readBytes 0x096 5 = [0xF0, 0x80, 0xF0, 0x80, 0xF0] ∧ State.reset.readBytes 0x09B 5 = [0xF0, 0x80, 0xF0, 0x80, 0x80] ∧
  (∀ a, a < 0x050 ∨ 0x0A0 ≤ a → State.reset.readByte a = 0)

/-! ### Invariants and whole-machine rules -/

/-- The machine right after reset meets the invariant. -/
def Obligations.ResetMeetsTheInvariant : Prop := State.reset.Inv

/-- Every event of every agent keeps the invariant: canonical memory, nothing listed in the reserved region, at most 16 return
addresses (R26, R51, R56), and the audio device's last notification is the level `sound_on` (R258). The write protection and the
notification are the spec's decisions D17 and D27 (logs 7 and 13). -/
def Obligations.EveryEventKeepsTheInvariant : Prop :=
  ∀ s t : State, s.Inv → step s = .next t → t.Inv

/-- No event changes a byte of 0x000 to 0x1FF, where the font lies, or the configuration (R6, R33, R37, R56, R281; the spec's
decision D17, log 13). -/
def Obligations.TheReservedRegionNeverChanges : Prop :=
  ∀ s t : State, s.Inv → step s = .next t → t.config = s.config ∧ ∀ a, a < 0x200 → t.readByte a = s.readByte a

/-- Only the instructions of R22's table, and those that name `VF` as their destination, can change `VF`. The last row's quirk is
the spec's decision D8 (log 15). -/
def Obligations.OnlyTheListedInstructionsWriteVF : Prop :=
  ∀ (i : Instr) (s t : State), exec i s = .next t → t.reg 15 ≠ s.reg 15 → mayWriteFlag s.config i

/-- Who may write what, over all instructions: the framebuffer (R29), the stack (R26), memory (R52), the timers (R27), the index
(R23), the mode (R36, R108, R212), the keys (R31), the configuration (R33); and the random source is drawn by `CXNN` alone (R35). The
mode Halted and what an error leaves are the spec's decisions D14 to D16 and D39 (logs 6 and 12); the free draws are its decision
D29 with the model's own count of them (log 3); the schedule is a field of the model's own (log 4). -/
def Obligations.EachPartHasItsWriters : Prop :=
  ∀ (i : Instr) (s t : State), exec i s = .next t →
    (t.fb ≠ s.fb → i = .cls ∨ ∃ x y n, i = .drw x y n) ∧
    (t.displayDirty ≠ s.displayDirty → t.displayDirty = true ∧ (i = .cls ∨ ∃ x y n, i = .drw x y n)) ∧
    (t.stack ≠ s.stack → i = .ret ∨ ∃ nnn, i = .call nnn) ∧
    (t.mem ≠ s.mem → ∃ x, i = .ldB x ∨ i = .ldMemVx x) ∧
    (t.dt ≠ s.dt → ∃ x, i = .ldDtVx x) ∧
    (t.st ≠ s.st → ∃ x, i = .ldStVx x) ∧
    (t.i ≠ s.i → (∃ nnn, i = .ldI nnn) ∨ ∃ x, i = .addI x ∨ i = .ldF x ∨
      ((i = .ldMemVx x ∨ i = .ldVxMem x) ∧ s.config.quirks.incrementIndexOnBlockIo = true)) ∧
    (t.mode ≠ s.mode → (∃ x, i = .ldVxK x ∧ t.mode = .awaitingKey x) ∨ ∃ e, t.mode = .halted e ∧ ErrorTaken e s t) ∧
    (t.draws ≠ s.draws → ∃ x nn, i = .rnd x nn) ∧
    t.keys = s.keys ∧ t.config = s.config ∧ t.schedule = s.schedule

/-- R105: executing a descriptor is a function of the instruction, the configuration, the state and, for `CXNN` alone, one draw
of the random source; keys are read by `EX9E` and `EXA1` alone. Two machines that differ in the rest only go on alike. That the
draws are numbered free values, counted in a field of the model's own, is the model's choice (log 3). -/
def Obligations.KeysAndDrawsAreReadByTheirInstructionsAlone : Prop :=
  ∀ (i : Instr) (s : State) (keys : Keys) (draws : Nat), ∃ t, exec i s = .next t ∧
    ((∀ x, i ≠ .skp x ∧ i ≠ .sknp x) → exec i { s with keys := keys } = .next { t with keys := keys }) ∧
    ((∀ x nn, i ≠ .rnd x nn) → exec i { s with draws := draws } = .next { t with draws := draws }) ∧
    (Config.randomByte draws = Config.randomByte s.draws → ∀ x nn, i = .rnd x nn →
      exec i { s with draws := draws } = .next { t with draws := draws + 1 })

/-- A halted run (R36, R109, R257, R269): no step is enabled, no event but a reset leaves the mode, and only the keys and the
dirty flag can change. That a step there is a fault and a tick passes unseen are the model's choices (log 6). -/
def Obligations.HaltedIsLeftByResetAlone : Prop :=
  ∀ (s : State) (er : MachineError) (e : Event), s.mode = .halted er →
    runEvent .step s = .fault (.halted er) ∧
    ∀ t, runEvent e s = .next t → (∀ program, e ≠ .reset program) →
      t = { s with keys := t.keys, displayDirty := t.displayDirty }

/-- The wait for a key (R109, R261, R268): no instruction executes, and no event but a key-down edge or a reset leaves it; what
changes meanwhile is the timers, the keys and what the renderer clears. That a step there changes nothing is the model's choice
(log 5). -/
def Obligations.TheWaitIsLeftByAnEdgeOrReset : Prop :=
  ∀ (s t : State) (x : RegIdx) (e : Event), s.mode = .awaitingKey x → runEvent e s = .next t →
    (∀ program, e ≠ .reset program) →
    (e = .step → t = s) ∧
    (t = { s with dt := t.dt, st := t.st, soundNotes := t.soundNotes, keys := t.keys, displayDirty := t.displayDirty } ∨
      ∃ new, e = .keyUpdate new ∧ t.mode = .running ∧ ∃ k : KeyIdx, s.keys[k] = false ∧ new[k] = true)

/-- R256's property at any instruction rate: in one second at 60 ticks a second, with any steps and other events between them
that leave DT to the ticks, a delay timer of 60 counts down to exactly 0; over any run it loses one per tick and stays at 0. The
cadence as a premise on the event sequence is the spec's decision D26 (log 23). -/
def Obligations.SixtyTicksASecondWhateverTheRate : Prop :=
  ∀ (run : List (Nat × Event)) (s : State), DelayLeftToTicks (run.map Prod.snd) s →
    ∃ t, play (run.map Prod.snd) s = .next t ∧
      t.dt.toNat = s.dt.toNat - run.countP (fun te => decide (te.2 = .tick)) ∧
      (∀ second, 0 < second → (∀ te ∈ run, te.1 < second) → TickCadence second second run → s.dt.toNat = 60 →
        t.dt.toNat = 0 ∧ run.countP (fun te => decide (te.2 = .tick)) = 60)

/-- The schedule is played in its order, one event at a time, to the same end as the events one after the other: every
interleaving of the agents is a schedule (R247, the spec's decision D26; the schedule is the model's own, log 4). -/
def Obligations.EveryInterleavingIsASchedule : Prop :=
  ∀ (events : List Event) (s : State),
    Host.Core.run Sys2Proof.core events.length { s with schedule := events } = play events { s with schedule := [] }
end

