-- ==== Sys2Proof/Laws/Encoding.lean ====
section
/-! SUPPORT. The fields of an encoded word, and its fixed bits, once per format. -/

namespace Sys2Proof

/-! ### Fields -/

@[simp] theorem fieldNNN_encodeA (c : BitVec 4) (nnn : BitVec 12) : fieldNNN (encodeA c nnn) = nnn := by
  refine BitVec.eq_of_getLsbD_eq fun i hi => ?_
  interval_cases i <;> simp [fieldNNN, encodeA, placeField]

@[simp] theorem fieldNN_encodeXNN (c : BitVec 4) (x : RegIdx) (nn : Byte) : fieldNN (encodeXNN c x nn) = nn := by
  refine BitVec.eq_of_getLsbD_eq fun i hi => ?_
  interval_cases i <;> simp [fieldNN, encodeXNN, placeField]


@[simp] theorem fieldX_encodeXNN (c : BitVec 4) (x : RegIdx) (nn : Byte) : fieldX (encodeXNN c x nn) = x := by
  have : (encodeXNN c x nn).extractLsb' 8 4 = BitVec.ofFin (w := 4) x := by
    refine BitVec.eq_of_getLsbD_eq fun i hi => ?_
    interval_cases i <;> simp [encodeXNN, placeField]
  simp [fieldX, this]

@[simp] theorem fieldX_encodeXYN (c : BitVec 4) (x y : RegIdx) (n : BitVec 4) : fieldX (encodeXYN c x y n) = x := by
  have : (encodeXYN c x y n).extractLsb' 8 4 = BitVec.ofFin (w := 4) x := by
    refine BitVec.eq_of_getLsbD_eq fun i hi => ?_
    interval_cases i <;> simp [encodeXYN, placeField]
  simp [fieldX, this]

@[simp] theorem fieldY_encodeXYN (c : BitVec 4) (x y : RegIdx) (n : BitVec 4) : fieldY (encodeXYN c x y n) = y := by
  have : (encodeXYN c x y n).extractLsb' 4 4 = BitVec.ofFin (w := 4) y := by
    refine BitVec.eq_of_getLsbD_eq fun i hi => ?_
    interval_cases i <;> simp [encodeXYN, placeField]
  simp [fieldY, this]

@[simp] theorem fieldN_encodeXYN (c : BitVec 4) (x y : RegIdx) (n : Fin 16) : fieldN (encodeXYN c x y (BitVec.ofFin (w := 4) n)) = n := by
  have : (encodeXYN c x y (BitVec.ofFin (w := 4) n)).extractLsb' 0 4 = BitVec.ofFin (w := 4) n := by
    refine BitVec.eq_of_getLsbD_eq fun i hi => ?_
    interval_cases i <;> simp [encodeXYN, placeField]
  simp [fieldN, this]

/-! ### Fixed bits under the masks of the opcode table -/

theorem encodeA_and (c : BitVec 4) (nnn : BitVec 12) :
    encodeA c nnn &&& 0xF000#16 = placeField c 12 := by
  refine BitVec.eq_of_getLsbD_eq fun i hi => ?_
  interval_cases i <;> simp [encodeA, placeField]

theorem encodeXNN_and (c : BitVec 4) (x : RegIdx) (nn : Byte) :
    encodeXNN c x nn &&& 0xF000#16 = placeField c 12 := by
  refine BitVec.eq_of_getLsbD_eq fun i hi => ?_
  interval_cases i <;> simp [encodeXNN, placeField]

theorem encodeXNN_and_sub (c : BitVec 4) (x : RegIdx) (nn : Byte) :
    encodeXNN c x nn &&& 0xF0FF#16 = placeField c 12 ||| placeField nn 0 := by
  refine BitVec.eq_of_getLsbD_eq fun i hi => ?_
  interval_cases i <;> simp [encodeXNN, placeField]

theorem encodeXYN_and (c : BitVec 4) (x y : RegIdx) (n : BitVec 4) :
    encodeXYN c x y n &&& 0xF000#16 = placeField c 12 := by
  refine BitVec.eq_of_getLsbD_eq fun i hi => ?_
  interval_cases i <;> simp [encodeXYN, placeField]

theorem encodeXYN_and_sub (c : BitVec 4) (x y : RegIdx) (n : BitVec 4) :
    encodeXYN c x y n &&& 0xF00F#16 = placeField c 12 ||| placeField n 0 := by
  refine BitVec.eq_of_getLsbD_eq fun i hi => ?_
  interval_cases i <;> simp [encodeXYN, placeField]

end Sys2Proof
end

