-- ==== Sys2Proof/Laws/State.lean ====
section
/-! SUPPORT. One lemma per field per update of State, true by definition, for simp. -/

namespace Sys2Proof.Machine

variable (s : State)

/-! ### setReg -/

@[simp] theorem State.setReg_config (r : RegIdx) (b : Byte) : (s.setReg r b).config = s.config := rfl
@[simp] theorem State.setReg_v (r : RegIdx) (b : Byte) : (s.setReg r b).v = s.v.set r b := rfl
@[simp] theorem State.setReg_i (r : RegIdx) (b : Byte) : (s.setReg r b).i = s.i := rfl
@[simp] theorem State.setReg_pc (r : RegIdx) (b : Byte) : (s.setReg r b).pc = s.pc := rfl
@[simp] theorem State.setReg_stack (r : RegIdx) (b : Byte) : (s.setReg r b).stack = s.stack := rfl
@[simp] theorem State.setReg_dt (r : RegIdx) (b : Byte) : (s.setReg r b).dt = s.dt := rfl
@[simp] theorem State.setReg_st (r : RegIdx) (b : Byte) : (s.setReg r b).st = s.st := rfl
@[simp] theorem State.setReg_fb (r : RegIdx) (b : Byte) : (s.setReg r b).fb = s.fb := rfl
@[simp] theorem State.setReg_displayDirty (r : RegIdx) (b : Byte) : (s.setReg r b).displayDirty = s.displayDirty := rfl
@[simp] theorem State.setReg_keys (r : RegIdx) (b : Byte) : (s.setReg r b).keys = s.keys := rfl
@[simp] theorem State.setReg_mode (r : RegIdx) (b : Byte) : (s.setReg r b).mode = s.mode := rfl
@[simp] theorem State.setReg_mem (r : RegIdx) (b : Byte) : (s.setReg r b).mem = s.mem := rfl
@[simp] theorem State.setReg_reports (r : RegIdx) (b : Byte) : (s.setReg r b).reports = s.reports := rfl
@[simp] theorem State.setReg_soundNotes (r : RegIdx) (b : Byte) : (s.setReg r b).soundNotes = s.soundNotes := rfl
@[simp] theorem State.setReg_draws (r : RegIdx) (b : Byte) : (s.setReg r b).draws = s.draws := rfl
@[simp] theorem State.setReg_schedule (r : RegIdx) (b : Byte) : (s.setReg r b).schedule = s.schedule := rfl

/-! ### setIndex -/

@[simp] theorem State.setIndex_config (a : Word) : (s.setIndex a).config = s.config := rfl
@[simp] theorem State.setIndex_v (a : Word) : (s.setIndex a).v = s.v := rfl
@[simp] theorem State.setIndex_i (a : Word) : (s.setIndex a).i = a := rfl
@[simp] theorem State.setIndex_pc (a : Word) : (s.setIndex a).pc = s.pc := rfl
@[simp] theorem State.setIndex_stack (a : Word) : (s.setIndex a).stack = s.stack := rfl
@[simp] theorem State.setIndex_dt (a : Word) : (s.setIndex a).dt = s.dt := rfl
@[simp] theorem State.setIndex_st (a : Word) : (s.setIndex a).st = s.st := rfl
@[simp] theorem State.setIndex_fb (a : Word) : (s.setIndex a).fb = s.fb := rfl
@[simp] theorem State.setIndex_displayDirty (a : Word) : (s.setIndex a).displayDirty = s.displayDirty := rfl
@[simp] theorem State.setIndex_keys (a : Word) : (s.setIndex a).keys = s.keys := rfl
@[simp] theorem State.setIndex_mode (a : Word) : (s.setIndex a).mode = s.mode := rfl
@[simp] theorem State.setIndex_mem (a : Word) : (s.setIndex a).mem = s.mem := rfl
@[simp] theorem State.setIndex_reports (a : Word) : (s.setIndex a).reports = s.reports := rfl
@[simp] theorem State.setIndex_soundNotes (a : Word) : (s.setIndex a).soundNotes = s.soundNotes := rfl
@[simp] theorem State.setIndex_draws (a : Word) : (s.setIndex a).draws = s.draws := rfl
@[simp] theorem State.setIndex_schedule (a : Word) : (s.setIndex a).schedule = s.schedule := rfl

/-! ### setPc -/

@[simp] theorem State.setPc_config (a : Word) : (s.setPc a).config = s.config := rfl
@[simp] theorem State.setPc_v (a : Word) : (s.setPc a).v = s.v := rfl
@[simp] theorem State.setPc_i (a : Word) : (s.setPc a).i = s.i := rfl
@[simp] theorem State.setPc_pc (a : Word) : (s.setPc a).pc = a := rfl
@[simp] theorem State.setPc_stack (a : Word) : (s.setPc a).stack = s.stack := rfl
@[simp] theorem State.setPc_dt (a : Word) : (s.setPc a).dt = s.dt := rfl
@[simp] theorem State.setPc_st (a : Word) : (s.setPc a).st = s.st := rfl
@[simp] theorem State.setPc_fb (a : Word) : (s.setPc a).fb = s.fb := rfl
@[simp] theorem State.setPc_displayDirty (a : Word) : (s.setPc a).displayDirty = s.displayDirty := rfl
@[simp] theorem State.setPc_keys (a : Word) : (s.setPc a).keys = s.keys := rfl
@[simp] theorem State.setPc_mode (a : Word) : (s.setPc a).mode = s.mode := rfl
@[simp] theorem State.setPc_mem (a : Word) : (s.setPc a).mem = s.mem := rfl
@[simp] theorem State.setPc_reports (a : Word) : (s.setPc a).reports = s.reports := rfl
@[simp] theorem State.setPc_soundNotes (a : Word) : (s.setPc a).soundNotes = s.soundNotes := rfl
@[simp] theorem State.setPc_draws (a : Word) : (s.setPc a).draws = s.draws := rfl
@[simp] theorem State.setPc_schedule (a : Word) : (s.setPc a).schedule = s.schedule := rfl

/-! ### setStack -/

@[simp] theorem State.setStack_config (l : List Word) : (s.setStack l).config = s.config := rfl
@[simp] theorem State.setStack_v (l : List Word) : (s.setStack l).v = s.v := rfl
@[simp] theorem State.setStack_i (l : List Word) : (s.setStack l).i = s.i := rfl
@[simp] theorem State.setStack_pc (l : List Word) : (s.setStack l).pc = s.pc := rfl
@[simp] theorem State.setStack_stack (l : List Word) : (s.setStack l).stack = l := rfl
@[simp] theorem State.setStack_dt (l : List Word) : (s.setStack l).dt = s.dt := rfl
@[simp] theorem State.setStack_st (l : List Word) : (s.setStack l).st = s.st := rfl
@[simp] theorem State.setStack_fb (l : List Word) : (s.setStack l).fb = s.fb := rfl
@[simp] theorem State.setStack_displayDirty (l : List Word) : (s.setStack l).displayDirty = s.displayDirty := rfl
@[simp] theorem State.setStack_keys (l : List Word) : (s.setStack l).keys = s.keys := rfl
@[simp] theorem State.setStack_mode (l : List Word) : (s.setStack l).mode = s.mode := rfl
@[simp] theorem State.setStack_mem (l : List Word) : (s.setStack l).mem = s.mem := rfl
@[simp] theorem State.setStack_reports (l : List Word) : (s.setStack l).reports = s.reports := rfl
@[simp] theorem State.setStack_soundNotes (l : List Word) : (s.setStack l).soundNotes = s.soundNotes := rfl
@[simp] theorem State.setStack_draws (l : List Word) : (s.setStack l).draws = s.draws := rfl
@[simp] theorem State.setStack_schedule (l : List Word) : (s.setStack l).schedule = s.schedule := rfl

/-! ### setDelay -/

@[simp] theorem State.setDelay_config (b : Byte) : (s.setDelay b).config = s.config := rfl
@[simp] theorem State.setDelay_v (b : Byte) : (s.setDelay b).v = s.v := rfl
@[simp] theorem State.setDelay_i (b : Byte) : (s.setDelay b).i = s.i := rfl
@[simp] theorem State.setDelay_pc (b : Byte) : (s.setDelay b).pc = s.pc := rfl
@[simp] theorem State.setDelay_stack (b : Byte) : (s.setDelay b).stack = s.stack := rfl
@[simp] theorem State.setDelay_dt (b : Byte) : (s.setDelay b).dt = b := rfl
@[simp] theorem State.setDelay_st (b : Byte) : (s.setDelay b).st = s.st := rfl
@[simp] theorem State.setDelay_fb (b : Byte) : (s.setDelay b).fb = s.fb := rfl
@[simp] theorem State.setDelay_displayDirty (b : Byte) : (s.setDelay b).displayDirty = s.displayDirty := rfl
@[simp] theorem State.setDelay_keys (b : Byte) : (s.setDelay b).keys = s.keys := rfl
@[simp] theorem State.setDelay_mode (b : Byte) : (s.setDelay b).mode = s.mode := rfl
@[simp] theorem State.setDelay_mem (b : Byte) : (s.setDelay b).mem = s.mem := rfl
@[simp] theorem State.setDelay_reports (b : Byte) : (s.setDelay b).reports = s.reports := rfl
@[simp] theorem State.setDelay_soundNotes (b : Byte) : (s.setDelay b).soundNotes = s.soundNotes := rfl
@[simp] theorem State.setDelay_draws (b : Byte) : (s.setDelay b).draws = s.draws := rfl
@[simp] theorem State.setDelay_schedule (b : Byte) : (s.setDelay b).schedule = s.schedule := rfl

/-! ### setSound -/

@[simp] theorem State.setSound_config (b : Byte) : (s.setSound b).config = s.config := rfl
@[simp] theorem State.setSound_v (b : Byte) : (s.setSound b).v = s.v := rfl
@[simp] theorem State.setSound_i (b : Byte) : (s.setSound b).i = s.i := rfl
@[simp] theorem State.setSound_pc (b : Byte) : (s.setSound b).pc = s.pc := rfl
@[simp] theorem State.setSound_stack (b : Byte) : (s.setSound b).stack = s.stack := rfl
@[simp] theorem State.setSound_dt (b : Byte) : (s.setSound b).dt = s.dt := rfl
@[simp] theorem State.setSound_st (b : Byte) : (s.setSound b).st = b := rfl
@[simp] theorem State.setSound_fb (b : Byte) : (s.setSound b).fb = s.fb := rfl
@[simp] theorem State.setSound_displayDirty (b : Byte) : (s.setSound b).displayDirty = s.displayDirty := rfl
@[simp] theorem State.setSound_keys (b : Byte) : (s.setSound b).keys = s.keys := rfl
@[simp] theorem State.setSound_mode (b : Byte) : (s.setSound b).mode = s.mode := rfl
@[simp] theorem State.setSound_mem (b : Byte) : (s.setSound b).mem = s.mem := rfl
@[simp] theorem State.setSound_reports (b : Byte) : (s.setSound b).reports = s.reports := rfl
@[simp] theorem State.setSound_soundNotes (b : Byte) : (s.setSound b).soundNotes = if s.soundOn != (b != 0) then (b != 0) :: s.soundNotes else s.soundNotes := rfl
@[simp] theorem State.setSound_draws (b : Byte) : (s.setSound b).draws = s.draws := rfl
@[simp] theorem State.setSound_schedule (b : Byte) : (s.setSound b).schedule = s.schedule := rfl

/-! ### setFb -/

@[simp] theorem State.setFb_config (g : Framebuffer) : (s.setFb g).config = s.config := rfl
@[simp] theorem State.setFb_v (g : Framebuffer) : (s.setFb g).v = s.v := rfl
@[simp] theorem State.setFb_i (g : Framebuffer) : (s.setFb g).i = s.i := rfl
@[simp] theorem State.setFb_pc (g : Framebuffer) : (s.setFb g).pc = s.pc := rfl
@[simp] theorem State.setFb_stack (g : Framebuffer) : (s.setFb g).stack = s.stack := rfl
@[simp] theorem State.setFb_dt (g : Framebuffer) : (s.setFb g).dt = s.dt := rfl
@[simp] theorem State.setFb_st (g : Framebuffer) : (s.setFb g).st = s.st := rfl
@[simp] theorem State.setFb_fb (g : Framebuffer) : (s.setFb g).fb = g := rfl
@[simp] theorem State.setFb_displayDirty (g : Framebuffer) : (s.setFb g).displayDirty = s.displayDirty := rfl
@[simp] theorem State.setFb_keys (g : Framebuffer) : (s.setFb g).keys = s.keys := rfl
@[simp] theorem State.setFb_mode (g : Framebuffer) : (s.setFb g).mode = s.mode := rfl
@[simp] theorem State.setFb_mem (g : Framebuffer) : (s.setFb g).mem = s.mem := rfl
@[simp] theorem State.setFb_reports (g : Framebuffer) : (s.setFb g).reports = s.reports := rfl
@[simp] theorem State.setFb_soundNotes (g : Framebuffer) : (s.setFb g).soundNotes = s.soundNotes := rfl
@[simp] theorem State.setFb_draws (g : Framebuffer) : (s.setFb g).draws = s.draws := rfl
@[simp] theorem State.setFb_schedule (g : Framebuffer) : (s.setFb g).schedule = s.schedule := rfl

/-! ### markDirty -/

@[simp] theorem State.markDirty_config (d : Bool) : (s.markDirty d).config = s.config := rfl
@[simp] theorem State.markDirty_v (d : Bool) : (s.markDirty d).v = s.v := rfl
@[simp] theorem State.markDirty_i (d : Bool) : (s.markDirty d).i = s.i := rfl
@[simp] theorem State.markDirty_pc (d : Bool) : (s.markDirty d).pc = s.pc := rfl
@[simp] theorem State.markDirty_stack (d : Bool) : (s.markDirty d).stack = s.stack := rfl
@[simp] theorem State.markDirty_dt (d : Bool) : (s.markDirty d).dt = s.dt := rfl
@[simp] theorem State.markDirty_st (d : Bool) : (s.markDirty d).st = s.st := rfl
@[simp] theorem State.markDirty_fb (d : Bool) : (s.markDirty d).fb = s.fb := rfl
@[simp] theorem State.markDirty_displayDirty (d : Bool) : (s.markDirty d).displayDirty = (s.displayDirty || d) := rfl
@[simp] theorem State.markDirty_keys (d : Bool) : (s.markDirty d).keys = s.keys := rfl
@[simp] theorem State.markDirty_mode (d : Bool) : (s.markDirty d).mode = s.mode := rfl
@[simp] theorem State.markDirty_mem (d : Bool) : (s.markDirty d).mem = s.mem := rfl
@[simp] theorem State.markDirty_reports (d : Bool) : (s.markDirty d).reports = s.reports := rfl
@[simp] theorem State.markDirty_soundNotes (d : Bool) : (s.markDirty d).soundNotes = s.soundNotes := rfl
@[simp] theorem State.markDirty_draws (d : Bool) : (s.markDirty d).draws = s.draws := rfl
@[simp] theorem State.markDirty_schedule (d : Bool) : (s.markDirty d).schedule = s.schedule := rfl

/-! ### setMode -/

@[simp] theorem State.setMode_config (m : Mode) : (s.setMode m).config = s.config := rfl
@[simp] theorem State.setMode_v (m : Mode) : (s.setMode m).v = s.v := rfl
@[simp] theorem State.setMode_i (m : Mode) : (s.setMode m).i = s.i := rfl
@[simp] theorem State.setMode_pc (m : Mode) : (s.setMode m).pc = s.pc := rfl
@[simp] theorem State.setMode_stack (m : Mode) : (s.setMode m).stack = s.stack := rfl
@[simp] theorem State.setMode_dt (m : Mode) : (s.setMode m).dt = s.dt := rfl
@[simp] theorem State.setMode_st (m : Mode) : (s.setMode m).st = s.st := rfl
@[simp] theorem State.setMode_fb (m : Mode) : (s.setMode m).fb = s.fb := rfl
@[simp] theorem State.setMode_displayDirty (m : Mode) : (s.setMode m).displayDirty = s.displayDirty := rfl
@[simp] theorem State.setMode_keys (m : Mode) : (s.setMode m).keys = s.keys := rfl
@[simp] theorem State.setMode_mode (m : Mode) : (s.setMode m).mode = m := rfl
@[simp] theorem State.setMode_mem (m : Mode) : (s.setMode m).mem = s.mem := rfl
@[simp] theorem State.setMode_reports (m : Mode) : (s.setMode m).reports = s.reports := rfl
@[simp] theorem State.setMode_soundNotes (m : Mode) : (s.setMode m).soundNotes = s.soundNotes := rfl
@[simp] theorem State.setMode_draws (m : Mode) : (s.setMode m).draws = s.draws := rfl
@[simp] theorem State.setMode_schedule (m : Mode) : (s.setMode m).schedule = s.schedule := rfl

/-! ### countDraw -/

@[simp] theorem State.countDraw_config : s.countDraw.config = s.config := rfl
@[simp] theorem State.countDraw_v : s.countDraw.v = s.v := rfl
@[simp] theorem State.countDraw_i : s.countDraw.i = s.i := rfl
@[simp] theorem State.countDraw_pc : s.countDraw.pc = s.pc := rfl
@[simp] theorem State.countDraw_stack : s.countDraw.stack = s.stack := rfl
@[simp] theorem State.countDraw_dt : s.countDraw.dt = s.dt := rfl
@[simp] theorem State.countDraw_st : s.countDraw.st = s.st := rfl
@[simp] theorem State.countDraw_fb : s.countDraw.fb = s.fb := rfl
@[simp] theorem State.countDraw_displayDirty : s.countDraw.displayDirty = s.displayDirty := rfl
@[simp] theorem State.countDraw_keys : s.countDraw.keys = s.keys := rfl
@[simp] theorem State.countDraw_mode : s.countDraw.mode = s.mode := rfl
@[simp] theorem State.countDraw_mem : s.countDraw.mem = s.mem := rfl
@[simp] theorem State.countDraw_reports : s.countDraw.reports = s.reports := rfl
@[simp] theorem State.countDraw_soundNotes : s.countDraw.soundNotes = s.soundNotes := rfl
@[simp] theorem State.countDraw_draws : s.countDraw.draws = s.draws + 1 := rfl
@[simp] theorem State.countDraw_schedule : s.countDraw.schedule = s.schedule := rfl

/-! ### writeByte -/

@[simp] theorem State.writeByte_config (a : Nat) (b : Byte) : (s.writeByte a b).config = s.config := rfl
@[simp] theorem State.writeByte_v (a : Nat) (b : Byte) : (s.writeByte a b).v = s.v := rfl
@[simp] theorem State.writeByte_i (a : Nat) (b : Byte) : (s.writeByte a b).i = s.i := rfl
@[simp] theorem State.writeByte_pc (a : Nat) (b : Byte) : (s.writeByte a b).pc = s.pc := rfl
@[simp] theorem State.writeByte_stack (a : Nat) (b : Byte) : (s.writeByte a b).stack = s.stack := rfl
@[simp] theorem State.writeByte_dt (a : Nat) (b : Byte) : (s.writeByte a b).dt = s.dt := rfl
@[simp] theorem State.writeByte_st (a : Nat) (b : Byte) : (s.writeByte a b).st = s.st := rfl
@[simp] theorem State.writeByte_fb (a : Nat) (b : Byte) : (s.writeByte a b).fb = s.fb := rfl
@[simp] theorem State.writeByte_displayDirty (a : Nat) (b : Byte) : (s.writeByte a b).displayDirty = s.displayDirty := rfl
@[simp] theorem State.writeByte_keys (a : Nat) (b : Byte) : (s.writeByte a b).keys = s.keys := rfl
@[simp] theorem State.writeByte_mode (a : Nat) (b : Byte) : (s.writeByte a b).mode = s.mode := rfl
@[simp] theorem State.writeByte_mem (a : Nat) (b : Byte) : (s.writeByte a b).mem = Memory.write s.config.resetByte s.mem a b := rfl
@[simp] theorem State.writeByte_reports (a : Nat) (b : Byte) : (s.writeByte a b).reports = s.reports := rfl
@[simp] theorem State.writeByte_soundNotes (a : Nat) (b : Byte) : (s.writeByte a b).soundNotes = s.soundNotes := rfl
@[simp] theorem State.writeByte_draws (a : Nat) (b : Byte) : (s.writeByte a b).draws = s.draws := rfl
@[simp] theorem State.writeByte_schedule (a : Nat) (b : Byte) : (s.writeByte a b).schedule = s.schedule := rfl

/-! ### takeError -/

@[simp] theorem State.takeError_config (e : MachineError) : (s.takeError e).config = s.config := rfl
@[simp] theorem State.takeError_v (e : MachineError) : (s.takeError e).v = s.v := rfl
@[simp] theorem State.takeError_i (e : MachineError) : (s.takeError e).i = s.i := rfl
@[simp] theorem State.takeError_pc (e : MachineError) : (s.takeError e).pc = if haltsOn s.config e then s.pc else s.pc + 2 := rfl
@[simp] theorem State.takeError_stack (e : MachineError) : (s.takeError e).stack = s.stack := rfl
@[simp] theorem State.takeError_dt (e : MachineError) : (s.takeError e).dt = s.dt := rfl
@[simp] theorem State.takeError_st (e : MachineError) : (s.takeError e).st = s.st := rfl
@[simp] theorem State.takeError_fb (e : MachineError) : (s.takeError e).fb = s.fb := rfl
@[simp] theorem State.takeError_displayDirty (e : MachineError) : (s.takeError e).displayDirty = s.displayDirty := rfl
@[simp] theorem State.takeError_keys (e : MachineError) : (s.takeError e).keys = s.keys := rfl
@[simp] theorem State.takeError_mode (e : MachineError) : (s.takeError e).mode = if haltsOn s.config e then .halted e else s.mode := rfl
@[simp] theorem State.takeError_mem (e : MachineError) : (s.takeError e).mem = s.mem := rfl
@[simp] theorem State.takeError_reports (e : MachineError) : (s.takeError e).reports = { error := e, pc := s.pc } :: s.reports := rfl
@[simp] theorem State.takeError_soundNotes (e : MachineError) : (s.takeError e).soundNotes = s.soundNotes := rfl
@[simp] theorem State.takeError_draws (e : MachineError) : (s.takeError e).draws = s.draws := rfl
@[simp] theorem State.takeError_schedule (e : MachineError) : (s.takeError e).schedule = s.schedule := rfl

/-! ### Accessors over updates -/

@[simp] theorem State.setReg_readByte (r : RegIdx) (b : Byte) (c : Nat) : (s.setReg r b).readByte c = s.readByte c := rfl
@[simp] theorem State.setReg_soundOn (r : RegIdx) (b : Byte) : (s.setReg r b).soundOn = s.soundOn := rfl
@[simp] theorem State.setIndex_reg (a : Word) (q : RegIdx) : (s.setIndex a).reg q = s.reg q := rfl
@[simp] theorem State.setIndex_readByte (a : Word) (c : Nat) : (s.setIndex a).readByte c = s.readByte c := rfl
@[simp] theorem State.setIndex_soundOn (a : Word) : (s.setIndex a).soundOn = s.soundOn := rfl
@[simp] theorem State.setPc_reg (a : Word) (q : RegIdx) : (s.setPc a).reg q = s.reg q := rfl
@[simp] theorem State.setPc_readByte (a : Word) (c : Nat) : (s.setPc a).readByte c = s.readByte c := rfl
@[simp] theorem State.setPc_soundOn (a : Word) : (s.setPc a).soundOn = s.soundOn := rfl
@[simp] theorem State.setStack_reg (l : List Word) (q : RegIdx) : (s.setStack l).reg q = s.reg q := rfl
@[simp] theorem State.setStack_readByte (l : List Word) (c : Nat) : (s.setStack l).readByte c = s.readByte c := rfl
@[simp] theorem State.setStack_soundOn (l : List Word) : (s.setStack l).soundOn = s.soundOn := rfl
@[simp] theorem State.setDelay_reg (b : Byte) (q : RegIdx) : (s.setDelay b).reg q = s.reg q := rfl
@[simp] theorem State.setDelay_readByte (b : Byte) (c : Nat) : (s.setDelay b).readByte c = s.readByte c := rfl
@[simp] theorem State.setDelay_soundOn (b : Byte) : (s.setDelay b).soundOn = s.soundOn := rfl
@[simp] theorem State.setSound_reg (b : Byte) (q : RegIdx) : (s.setSound b).reg q = s.reg q := rfl
@[simp] theorem State.setSound_readByte (b : Byte) (c : Nat) : (s.setSound b).readByte c = s.readByte c := rfl
@[simp] theorem State.setFb_reg (g : Framebuffer) (q : RegIdx) : (s.setFb g).reg q = s.reg q := rfl
@[simp] theorem State.setFb_readByte (g : Framebuffer) (c : Nat) : (s.setFb g).readByte c = s.readByte c := rfl
@[simp] theorem State.setFb_soundOn (g : Framebuffer) : (s.setFb g).soundOn = s.soundOn := rfl
@[simp] theorem State.markDirty_reg (d : Bool) (q : RegIdx) : (s.markDirty d).reg q = s.reg q := rfl
@[simp] theorem State.markDirty_readByte (d : Bool) (c : Nat) : (s.markDirty d).readByte c = s.readByte c := rfl
@[simp] theorem State.markDirty_soundOn (d : Bool) : (s.markDirty d).soundOn = s.soundOn := rfl
@[simp] theorem State.setMode_reg (m : Mode) (q : RegIdx) : (s.setMode m).reg q = s.reg q := rfl
@[simp] theorem State.setMode_readByte (m : Mode) (c : Nat) : (s.setMode m).readByte c = s.readByte c := rfl
@[simp] theorem State.setMode_soundOn (m : Mode) : (s.setMode m).soundOn = s.soundOn := rfl
@[simp] theorem State.countDraw_reg (q : RegIdx) : s.countDraw.reg q = s.reg q := rfl
@[simp] theorem State.countDraw_readByte (c : Nat) : s.countDraw.readByte c = s.readByte c := rfl
@[simp] theorem State.countDraw_soundOn : s.countDraw.soundOn = s.soundOn := rfl
@[simp] theorem State.writeByte_reg (a : Nat) (b : Byte) (q : RegIdx) : (s.writeByte a b).reg q = s.reg q := rfl
@[simp] theorem State.writeByte_soundOn (a : Nat) (b : Byte) : (s.writeByte a b).soundOn = s.soundOn := rfl
@[simp] theorem State.takeError_reg (e : MachineError) (q : RegIdx) : (s.takeError e).reg q = s.reg q := rfl
@[simp] theorem State.takeError_readByte (e : MachineError) (c : Nat) : (s.takeError e).readByte c = s.readByte c := rfl
@[simp] theorem State.takeError_soundOn (e : MachineError) : (s.takeError e).soundOn = s.soundOn := rfl

@[simp] theorem State.setSound_soundOn (b : Byte) : (s.setSound b).soundOn = (b != 0) := rfl

end Sys2Proof.Machine
end

