-- ==== Sys2Proof/Laws/Memory.lean ====
section
/-! SUPPORT. The laws of memory: a read after a write, and that every operation keeps the canonical form. -/

namespace Sys2Proof.Machine

namespace Memory

/-- Addresses strictly rising. -/
abbrev Rising (m : Memory) : Prop := m.Pairwise (fun c d => c.1 < d.1)

/-- Below every listed address nothing is listed. -/
theorem lookup_eq_none (a : Nat) (m : Memory) (h : ∀ c ∈ m, c.1 ≠ a) : lookup a m = none := by
  induction m with
  | nil => rfl
  | cons c m ih =>
    have hc : a ≠ c.1 := fun e => h c (by simp) e.symm
    simp [lookup, hc, ih (fun d hd => h d (by simp [hd]))]

/-- What is listed after an insertion. -/
theorem lookup_insert (a b : Nat) (v : Byte) (m : Memory) :
    lookup b (insert a v m) = if b = a then some v else lookup b m := by
  induction m with
  | nil => simp [insert, lookup]
  | cons c m ih =>
    unfold insert
    split
    · simp [lookup]
    · split
      · rename_i h; subst h; by_cases hb : b = c.1 <;> simp [lookup, hb]
      · rename_i h; by_cases hb : b = c.1
        · have : b ≠ a := fun e => h (by rw [← e, hb])
          simp [lookup, hb]; intro e; exact absurd e.symm h
        · simp [lookup, hb, ih]

/-- What is listed after an erasure from a rising list. -/
theorem lookup_erase (a b : Nat) (m : Memory) (h : Rising m) :
    lookup b (erase a m) = if b = a then none else lookup b m := by
  induction m with
  | nil => simp [erase, lookup]
  | cons c m ih =>
    obtain ⟨hc, hm⟩ := List.pairwise_cons.mp h
    unfold erase
    split
    · rename_i hac
      by_cases hb : b = a
      · subst hb; simp only [if_true]
        exact lookup_eq_none b m fun d hd => by have := hc d hd; omega
      · have : b ≠ c.1 := fun e => hb (e.trans hac.symm)
        simp [lookup, hb, this]
    · rename_i hac
      by_cases hb : b = c.1
      · have : b ≠ a := fun e => hac (e.symm.trans hb)
        simp [lookup, hb]; intro e; exact absurd e.symm hac
      · simp [lookup, hb, ih hm]

/-- A read after a write gives the value written there, and every other address reads as before. -/
theorem read_write (u : Nat → Byte) (m : Memory) (h : Rising m) (a b : Nat) (v : Byte) :
    read u (write u m a v) b = if b = a then v else read u m b := by
  unfold read write
  split
  · rename_i hv; rw [lookup_erase a b m h]; by_cases hb : b = a <;> simp [hb, hv]
  · rw [lookup_insert]; by_cases hb : b = a <;> simp [hb]

/-- Every cell after an insertion is the new one or an old one. -/
theorem mem_insert {a : Nat} {v : Byte} {m : Memory} {c : Host.Cell} (h : c ∈ insert a v m) : c = (a, v) ∨ c ∈ m := by
  induction m with
  | nil => simpa [insert] using h
  | cons d m ih =>
    unfold insert at h
    split at h
    · simpa using h
    · split at h
      · rcases List.mem_cons.mp h with h | h
        · exact .inl h
        · exact .inr (by simp [h])
      · rcases List.mem_cons.mp h with h | h
        · exact .inr (by simp [h])
        · rcases ih h with h | h
          · exact .inl h
          · exact .inr (by simp [h])

/-- Every cell after an erasure is an old one. -/
theorem mem_erase {a : Nat} {m : Memory} {c : Host.Cell} (h : c ∈ erase a m) : c ∈ m := by
  induction m with
  | nil => simp [erase] at h
  | cons d m ih =>
    unfold erase at h
    split at h
    · simp [h]
    · rcases List.mem_cons.mp h with h | h
      · simp [h]
      · simp [ih h]

/-- An insertion keeps the addresses rising. -/
theorem rising_insert (a : Nat) (v : Byte) (m : Memory) (h : Rising m) : Rising (insert a v m) := by
  induction m with
  | nil => simp [insert]
  | cons d m ih =>
    obtain ⟨hd, hm⟩ := List.pairwise_cons.mp h
    unfold insert
    split
    · rename_i had
      refine List.pairwise_cons.mpr ⟨fun c hc => ?_, h⟩
      rcases List.mem_cons.mp hc with rfl | hc
      · exact had
      · exact Nat.lt_trans had (hd c hc)
    · split
      · rename_i had
        exact List.pairwise_cons.mpr ⟨fun c hc => by simpa [had] using hd c hc, hm⟩
      · refine List.pairwise_cons.mpr ⟨fun c hc => ?_, ih hm⟩
        rcases mem_insert hc with rfl | hc
        · simp only; omega
        · exact hd c hc

/-- An erasure keeps the addresses rising. -/
theorem rising_erase (a : Nat) (m : Memory) (h : Rising m) : Rising (erase a m) := by
  induction m with
  | nil => simp [erase]
  | cons d m ih =>
    obtain ⟨hd, hm⟩ := List.pairwise_cons.mp h
    unfold erase
    split
    · exact hm
    · exact List.pairwise_cons.mpr ⟨fun c hc => hd c (mem_erase hc), ih hm⟩

/-- A write keeps the canonical form. -/
theorem wf_write (u : Nat → Byte) (m : Memory) (h : wf u m) (a : Nat) (v : Byte) (ha : a < 0x1000) :
    wf u (write u m a v) := by
  unfold write
  split
  · exact ⟨rising_erase a m h.1, fun c hc => h.2 c (mem_erase hc)⟩
  · rename_i hv
    refine ⟨rising_insert a v m h.1, fun c hc => ?_⟩
    rcases mem_insert hc with rfl | hc
    · exact ⟨ha, hv⟩
    · exact h.2 c hc

/-- A write lists no address but the one written and those listed before. -/
theorem mem_write {u : Nat → Byte} {m : Memory} {a : Nat} {v : Byte} {c : Host.Cell} (h : c ∈ write u m a v) :
    c.1 = a ∨ c ∈ m := by
  unfold write at h
  split at h
  · exact .inr (mem_erase h)
  · rcases mem_insert h with rfl | h
    · exact .inl rfl
    · exact .inr h

end Memory

/-- A byte read after a byte write. -/
theorem State.readByte_writeByte (s : State) (h : Memory.Rising s.mem) (a c : Nat) (b : Byte) :
    (s.writeByte a b).readByte c = if c = a then b else s.readByte c :=
  Memory.read_write s.config.resetByte s.mem h a c b

/-- A byte write keeps the addresses rising. -/
theorem State.writeByte_rising (s : State) (h : Memory.Rising s.mem) (a : Nat) (b : Byte) :
    Memory.Rising (s.writeByte a b).mem := by
  simp only [State.writeByte_mem, Memory.write]
  split
  · exact Memory.rising_erase a s.mem h
  · exact Memory.rising_insert a b s.mem h

/-- Bytes written in order change nothing but memory. -/
theorem State.writeBytes_eq (l : List Byte) (s : State) (a : Nat) :
    s.writeBytes a l = { s with mem := (s.writeBytes a l).mem } := by
  induction l generalizing s a with
  | nil => rfl
  | cons b l ih => rw [State.writeBytes, ih]; rfl

/-- A byte read after bytes were written from `a` up. -/
theorem State.readByte_writeBytes (l : List Byte) (s : State) (h : Memory.Rising s.mem) (a c : Nat) :
    (s.writeBytes a l).readByte c = if a ≤ c then l.getD (c - a) (s.readByte c) else s.readByte c := by
  induction l generalizing s a with
  | nil => simp [State.writeBytes]
  | cons b l ih =>
    rw [State.writeBytes, ih _ (s.writeByte_rising h a b), s.readByte_writeByte h]
    rcases Nat.lt_trichotomy c a with hc | hc | hc
    · have h1 : ¬ a + 1 ≤ c := by omega
      have h2 : ¬ a ≤ c := by omega
      have h3 : c ≠ a := by omega
      simp [h1, h2, h3]
    · subst hc; simp
    · have h1 : a + 1 ≤ c := by omega
      have h2 : a ≤ c := by omega
      have h3 : c ≠ a := by omega
      obtain ⟨k, hk⟩ : ∃ k, c - a = k + 1 := ⟨c - a - 1, by omega⟩
      have h4 : c - (a + 1) = k := by omega
      simp [h1, h2, h3, hk, h4]

/-- Bytes written inside the 4096 bytes keep the canonical form. -/
theorem State.wf_writeBytes (l : List Byte) (s : State) (h : Memory.wf s.config.resetByte s.mem) (a : Nat)
    (ha : a + l.length ≤ 0x1000) : Memory.wf s.config.resetByte (s.writeBytes a l).mem := by
  induction l generalizing s a with
  | nil => exact h
  | cons b l ih =>
    simp only [List.length_cons] at ha
    exact ih (s.writeByte a b) (Memory.wf_write _ _ h a b (by omega)) (a + 1) (by omega)

/-- Bytes written from `a` up list no address below `a` that was not listed before. -/
theorem State.mem_writeBytes (l : List Byte) (s : State) (a : Nat) {c : Host.Cell} (h : c ∈ (s.writeBytes a l).mem) :
    a ≤ c.1 ∨ c ∈ s.mem := by
  induction l generalizing s a with
  | nil => exact .inr h
  | cons b l ih =>
    rcases ih (s.writeByte a b) (a + 1) h with h | h
    · exact .inl (by omega)
    · rcases Memory.mem_write h with h | h
      · exact .inl (by omega)
      · exact .inr h

/-- The first offending address: none exactly when every address of the range is allowed. -/
theorem firstBad_eq_none (allowed : Nat → Bool) (a n : Nat) :
    firstBad allowed a n = none ↔ ∀ b, a ≤ b → b < a + n → allowed b = true := by
  simp [firstBad, List.find?_eq_none, List.mem_range'_1]

/-- The first offending address: in the range, not allowed, and no lower address of the range offends. -/
theorem firstBad_eq_some (allowed : Nat → Bool) (a n b : Nat) :
    firstBad allowed a n = some b ↔
      (a ≤ b ∧ b < a + n) ∧ allowed b = false ∧ ∀ c, a ≤ c → c < b → allowed c = true := by
  induction n generalizing a with
  | zero => simp [firstBad]
  | succ n ih =>
    unfold firstBad
    rw [List.range'_succ, List.find?_cons]
    cases h : allowed a with
    | true =>
      have := ih (a + 1)
      unfold firstBad at this
      simp only [Bool.not_true, this]
      constructor
      · rintro ⟨h1, h2, h3⟩
        refine ⟨by omega, h2, fun c hc hcb => ?_⟩
        by_cases hca : c = a
        · rw [hca, h]
        · exact h3 c (by omega) hcb
      · rintro ⟨h1, h2, h3⟩
        have : b ≠ a := fun e => by rw [e, h] at h2; cases h2
        exact ⟨by omega, h2, fun c hc hcb => h3 c (by omega) hcb⟩
    | false =>
      simp only [Bool.not_false, Option.some.injEq]
      constructor
      · rintro rfl; exact ⟨by omega, h, fun c hc hcb => by omega⟩
      · rintro ⟨h1, h2, h3⟩
        by_contra hne
        have := h3 a (Nat.le_refl a) (by omega)
        rw [h] at this; cases this

end Sys2Proof.Machine
end

