-- ==== Sys2Proof/Laws/Events.lean ====
section
/-! SUPPORT. What each event of the agents other than the executor does, said once. -/

namespace Sys2Proof.Machine

/-- A tick in a machine that is not halted (R255). -/
theorem State.tick_of_not_halted (s : State) (h : ∀ e, s.mode ≠ .halted e) :
    s.tick = (s.setDelay (timerAfterTick s.dt)).setSound (timerAfterTick s.st) := by
  unfold State.tick
  split
  · exact absurd ‹_› (h _)
  all_goals rfl

/-- No tick happens in a halted machine (R257). -/
theorem State.tick_of_halted (s : State) (e : MachineError) (h : s.mode = .halted e) : s.tick = s := by
  simp [State.tick, h]

/-- A timer after a tick, as a number (R255). -/
@[simp] theorem timerAfterTick_toNat (b : Byte) : (timerAfterTick b).toNat = b.toNat - 1 := by
  simp only [timerAfterTick, BitVec.toNat_ofNat]
  omega

/-- The lowest edge is a key that goes down while no lower key does (R265). -/
theorem lowestEdge_eq_some (old new : Keys) (k : KeyIdx) :
    lowestEdge old new = some k ↔
      (old[k] = false ∧ new[k] = true) ∧ ∀ j : KeyIdx, j < k → old[j] = true ∨ new[j] = false := by
  simp only [lowestEdge, List.find?_eq_some_iff_getElem]
  constructor
  · rintro ⟨h1, i, hi, rfl, h3⟩
    refine ⟨by simpa using h1, fun j hj => ?_⟩
    have := h3 j.val (by simpa [Fin.lt_def] using hj)
    cases ho : old[j] <;> simp_all
  · rintro ⟨⟨h1, h2⟩, h3⟩
    refine ⟨by simp_all, k.val, by simp, by simp, fun j hj => ?_⟩
    have := h3 ⟨j, by omega⟩ hj
    cases ho : old[j] <;> simp_all

/-- There is no edge when no key goes down (R265). -/
theorem lowestEdge_eq_none (old new : Keys) :
    lowestEdge old new = none ↔ ∀ j : KeyIdx, old[j] = true ∨ new[j] = false := by
  simp only [lowestEdge, List.find?_eq_none, List.mem_finRange, true_implies]
  refine forall_congr' fun j => ?_
  cases old[j] <;> simp

/-- An edge completes a wait (R265). -/
theorem State.keyUpdate_of_edge (s : State) (new : Keys) (x : RegIdx) (k : KeyIdx) (hm : s.mode = .awaitingKey x)
    (h : lowestEdge s.keys new = some k) :
    s.keyUpdate new = { s with v := s.v.set x (BitVec.ofNat 8 k.val), pc := s.pc + 2, mode := .running, keys := new } := by
  simp only [State.keyUpdate, hm, h]
  rfl

/-- Without an edge a key update only replaces the snapshot (R264, R265). -/
theorem State.keyUpdate_of_no_edge (s : State) (new : Keys) (h : lowestEdge s.keys new = none) :
    s.keyUpdate new = { s with keys := new } := by
  unfold State.keyUpdate
  rw [h]
  cases s.mode <;> rfl

/-- Without a wait a key update only replaces the snapshot (R264). -/
theorem State.keyUpdate_of_not_waiting (s : State) (new : Keys) (h : ∀ x, s.mode ≠ .awaitingKey x) :
    s.keyUpdate new = { s with keys := new } := by
  unfold State.keyUpdate
  split
  · exact absurd ‹_› (h _)
  all_goals rfl

/-- The reset operation, field by field (R280). -/
theorem State.resetWith_eq (s : State) (program : List Byte) :
    s.resetWith program =
      { s with
        v := .replicate 16 0, i := 0, pc := 0x200, stack := [], dt := 0, st := 0, fb := Framebuffer.clear,
        displayDirty := true, mode := .running, mem := (s.resetWith program).mem,
        soundNotes := if s.st = 0 then s.soundNotes else false :: s.soundNotes } := by
  have hn : (if s.soundOn != ((0 : Byte) != 0) then ((0 : Byte) != 0) :: s.soundNotes else s.soundNotes) =
      if s.st = 0 then s.soundNotes else false :: s.soundNotes := by
    by_cases h : s.st = 0 <;> simp [State.soundOn, h]
  rw [← hn]
  exact State.writeBytes_eq program _ 0x200

/-- What memory reads as after the reset operation (R280). -/
theorem State.readByte_resetWith (s : State) (program : List Byte) (a : Nat) :
    (s.resetWith program).readByte a =
      if 0x200 ≤ a then program.getD (a - 0x200) (s.config.resetByte a) else s.config.resetByte a := by
  unfold State.resetWith
  rw [State.readByte_writeBytes]
  · rfl
  · exact List.Pairwise.nil

end Sys2Proof.Machine
end

