-- ==== Sys2Proof/Laws/Registers.lean ====
section
/-! SUPPORT. Reading a general register after a write, and what a block load leaves in the registers. -/

namespace Sys2Proof.Machine

/-- A register read after a register write: the value where it was written, the old value elsewhere. -/
@[simp] theorem State.reg_setReg (s : State) (r q : RegIdx) (b : Byte) :
    (s.setReg r b).reg q = if q = r then b else s.reg q := by
  unfold State.reg State.setReg
  by_cases h : q = r
  · subst h; simp
  · have h' : r.val ≠ q.val := fun e => h (Fin.ext e.symm)
    simp [h, h']

/-- A result and then a flag: `VF` holds the flag, `Vx` the result, every other register its old value. -/
@[simp] theorem State.reg_setRegAndFlag (s : State) (x q : RegIdx) (b f : Byte) :
    (s.setRegAndFlag x b f).reg q = if q = 15 then f else if q = x then b else s.reg q := by
  simp [State.setRegAndFlag]

/-- A fold of register writes with a value that depends on the register alone. -/
theorem State.reg_foldl_setReg (value : RegIdx → Byte) (l : List RegIdx) (s : State) (q : RegIdx) :
    (l.foldl (fun t k => t.setReg k (value k)) s).reg q = if q ∈ l then value q else s.reg q := by
  induction l generalizing s with
  | nil => simp
  | cons k l ih =>
    rw [List.foldl_cons, ih]
    by_cases h : q ∈ l <;> by_cases hk : q = k <;> simp [h, hk]

/-- A fold of register writes changes nothing but the registers. -/
theorem State.foldl_setReg_eq (value : RegIdx → Byte) (l : List RegIdx) (s : State) :
    l.foldl (fun t k => t.setReg k (value k)) s =
      { s with v := (l.foldl (fun t k => t.setReg k (value k)) s).v } := by
  induction l generalizing s with
  | nil => rfl
  | cons k l ih => rw [List.foldl_cons, ih]; rfl

/-- The registers of a block are those up to `Vx`. -/
@[simp] theorem mem_blockRegs (x q : RegIdx) : q ∈ blockRegs x ↔ q ≤ x := by
  simp [blockRegs]

/-- A block has `X + 1` registers. -/
theorem blockRegs_length (x : RegIdx) : (blockRegs x).length = blockSize x := by
  revert x; decide

/-- Register `k` stands at place `k` of a block that holds it. -/
theorem blockRegs_getElem? (x k : RegIdx) (h : k ≤ x) : (blockRegs x)[k.val]? = some k := by
  revert x k; decide

/-- A block load: `V0` to `Vx` from memory, every other register as before. -/
@[simp] theorem State.reg_loadBlock (s : State) (x q : RegIdx) :
    (s.loadBlock x).reg q = if q ≤ x then s.readByte (s.indexed q.val) else s.reg q := by
  simp [State.loadBlock, State.reg_foldl_setReg (fun k => s.readByte (s.indexed k.val))]

/-- A block load changes nothing but the registers. -/
theorem State.loadBlock_eq (s : State) (x : RegIdx) : s.loadBlock x = { s with v := (s.loadBlock x).v } :=
  State.foldl_setReg_eq (fun k => s.readByte (s.indexed k.val)) (blockRegs x) s

end Sys2Proof.Machine
end

