-- ==== Sys2Proof/Laws/Step.lean ====
section
/-! SUPPORT. What the shared operations of a step can do, said once: the end of an instruction, an error, a skip, the fetch,
an event and the step. -/

namespace Sys2Proof.Machine

/-- Every instruction ends in a next state, that of its applied result. -/
@[simp] theorem complete_eq (s : State) (r : ExecResult) : complete s r = .next (s.applyResult r) := rfl

@[simp] theorem State.applyResult_err (s : State) (e : MachineError) : s.applyResult (.err e) = s.takeError e := rfl

@[simp] theorem State.applyResult_ok (s u : State) (n : NextPc) (d : Bool) :
    s.applyResult (.ok u n d) = (u.applyNextPc s.pc n).markDirty d := rfl

@[simp] theorem State.applyNextPc_advance (s : State) (pc : Word) : s.applyNextPc pc .advance = s.setPc (pc + 2) := rfl

@[simp] theorem State.applyNextPc_jump (s : State) (pc target : Word) :
    s.applyNextPc pc (.jump target) = s.setPc target := rfl

@[simp] theorem State.applyNextPc_awaitKey (s : State) (pc : Word) (x : RegIdx) :
    s.applyNextPc pc (.awaitKey x) = (s.setPc pc).setMode (.awaitingKey x) := rfl

/-- A skip changes the PC alone. -/
theorem skipIf_eq (c : Bool) (s : State) :
    skipIf c s = .next { s with pc := if c then s.pc + 4 else s.pc + 2 } := by
  cases c <;> simp [skipIf, State.setPc, State.markDirty]

/-- When the scheduler halts on an error. -/
theorem haltsOn_iff (c : Config) (e : MachineError) :
    haltsOn c e = true ↔
      c.haltOnError = true ∨ (∃ w, e = .unrecognizedOpcode w) ∧ c.unrecognizedAdvances = false := by
  cases e <;> simp [haltsOn, MachineError.isUnrecognized]

/-- Taking an error does what `ErrorTaken` says, in every state. -/
theorem State.takeError_errorTaken (s : State) (e : MachineError) : ErrorTaken e s (s.takeError e) := by
  refine ⟨rfl, ?_, fun _ => rfl, rfl, rfl, ⟨rfl, rfl, rfl⟩, ⟨rfl, rfl⟩, fun _ => rfl, rfl, rfl, rfl, rfl⟩
  split
  · rename_i h; simp [(haltsOn_iff s.config e).mpr h]
  · rename_i h; simp [Bool.eq_false_iff.mpr (mt (haltsOn_iff s.config e).mp h)]

/-- A fetch succeeds exactly when both bytes exist, and gives the big-endian word at the PC. -/
theorem State.fetch_ok (s : State) (h : s.pc.toNat + 1 < 0x1000) :
    s.fetch = .ok (wordOfBytes (s.readByte s.pc.toNat) (s.readByte (s.pc.toNat + 1))) := by
  have : firstBad readable s.pc.toNat 2 = none :=
    (firstBad_eq_none _ _ _).mpr fun b _ hb => by simp only [readable, decide_eq_true_eq]; omega
  simp [State.fetch, this]

/-- A fetch that fails names the first of the two addresses that does not exist. -/
theorem State.fetch_error (s : State) (h : ¬ s.pc.toNat + 1 < 0x1000) :
    s.fetch = .error (.outOfBoundsAccess (if s.pc.toNat < 0x1000 then 0x1000 else s.pc.toNat)) := by
  have : firstBad readable s.pc.toNat 2 = some (if s.pc.toNat < 0x1000 then 0x1000 else s.pc.toNat) :=
    (firstBad_eq_some _ _ _ _).mpr (by
      split <;> refine ⟨by omega, by simp only [readable, decide_eq_false_iff_not]; omega, fun c hc hcb => ?_⟩ <;>
        simp only [readable, decide_eq_true_eq] <;> omega)
  simp [State.fetch, this]

/-- A step with nothing scheduled is a turn of the executor. -/
theorem step_of_empty (s : State) (h : s.schedule = []) : step s = executorTurn s := by
  simp [step, nextEvent, h]

/-- A step with something scheduled is its first event. -/
theorem step_of_cons (s : State) (e : Event) (rest : List Event) (h : s.schedule = e :: rest) :
    step s = runEvent e { s with schedule := rest } := by
  simp [step, nextEvent, h]

/-- Every instruction goes on to a next state. -/
theorem exec_next (i : Instr) (s : State) : ∃ t, exec i s = .next t := by
  cases i <;> simp only [exec]
  case ret => unfold execRet; split <;> exact ⟨_, rfl⟩
  case call => unfold execCall; split <;> exact ⟨_, rfl⟩
  case drw => unfold execDrw; split <;> exact ⟨_, rfl⟩
  case ldB => unfold execLdB; split <;> exact ⟨_, rfl⟩
  case ldMemVx => unfold execLdMemVx; split <;> exact ⟨_, rfl⟩
  case ldVxMem => unfold execLdVxMem; split <;> exact ⟨_, rfl⟩
  all_goals exact ⟨_, rfl⟩

/-- A step of the executor goes on to a next state, whatever lies at the PC. -/
theorem executorStep_next (s : State) : ∃ t, executorStep s = .next t := by
  unfold executorStep
  split
  · exact ⟨_, rfl⟩
  · unfold execDescriptor
    split
    · exact exec_next _ _
    · exact ⟨_, rfl⟩

/-- What a turn of the executor can answer as a next state: the state of a step, or while a key is awaited the same state. -/
theorem executorTurn_cases {s t : State} (h : executorTurn s = .next t) :
    (s.mode = .running ∧ executorStep s = .next t) ∨ ((∃ x, s.mode = .awaitingKey x) ∧ t = s) := by
  unfold executorTurn at h
  cases hm : s.mode <;> rw [hm] at h
  · exact .inl ⟨rfl, h⟩
  · cases h; exact .inr ⟨⟨_, rfl⟩, rfl⟩
  · cases h

/-- What a step of the executor can answer as a next state: an instruction's, or an error's of the fetch or of the word. -/
theorem executorStep_cases {s t : State} (h : executorStep s = .next t) :
    (∃ i, exec i s = .next t) ∨ ∃ e, t = s.takeError e := by
  unfold executorStep at h
  split at h
  · cases h; exact .inr ⟨_, rfl⟩
  · unfold execDescriptor at h
    split at h
    · exact .inl ⟨_, h⟩
    · cases h; exact .inr ⟨_, rfl⟩

/-- What an event can answer as a next state. -/
theorem runEvent_cases {e : Event} {s t : State} (h : runEvent e s = .next t) :
    (∃ i, exec i s = .next t) ∨ (∃ er, t = s.takeError er) ∨ t = s ∨ t = s.tick ∨ (∃ new, t = s.keyUpdate new) ∨
      t = s.present ∨ ∃ program, program.length ≤ maxProgram ∧ t = s.resetWith program := by
  cases e with
  | step =>
    rcases executorTurn_cases h with ⟨-, h⟩ | ⟨-, rfl⟩
    · rcases executorStep_cases h with h | h
      · exact .inl h
      · exact .inr (.inl h)
    · exact .inr (.inr (.inl rfl))
  | tick => cases h; exact .inr (.inr (.inr (.inl rfl)))
  | keyUpdate new => cases h; exact .inr (.inr (.inr (.inr (.inl ⟨new, rfl⟩))))
  | present => cases h; exact .inr (.inr (.inr (.inr (.inr (.inl rfl)))))
  | reset program =>
    simp only [runEvent, State.loadProgram] at h
    split at h
    · cases h; exact .inr (.inr (.inr (.inr (.inr (.inr ⟨program, ‹_›, rfl⟩)))))
    · cases h
  | stop => cases h

end Sys2Proof.Machine
end

