-- ==== Sys2Proof/Laws/Exec.lean ====
section
/-! SUPPORT. What each instruction does, as one equation of states: the spec lemma of each meaning, under the condition that
selects its case where it has several. -/

namespace Sys2Proof.Machine

variable (x y : RegIdx) (nn : Byte) (nnn : BitVec 12) (n : Fin 16) (s : State)

/-! ### Control transfer -/

theorem exec_ret_nil (h : s.stack = []) :
    exec .ret s = .next (s.takeError .stackUnderflow) := by
  simp [exec, execRet, h]

theorem exec_ret (below : List Word) (top : Word) (h : s.stack = below ++ [top]) :
    exec .ret s = .next { s with stack := below, pc := top } := by
  simp [exec, execRet, h, State.setStack, State.setPc, State.markDirty]

theorem exec_call_full (h : 16 ≤ s.stack.length) :
    exec (.call nnn) s = .next (s.takeError .stackOverflow) := by
  simp [exec, execCall, Nat.not_lt.mpr h]

theorem exec_call (h : s.stack.length < 16) :
    exec (.call nnn) s = .next { s with stack := s.stack ++ [s.pc + 2], pc := addressOperand nnn } := by
  simp [exec, execCall, h, State.setStack, State.setPc, State.markDirty]

theorem exec_jp :
    exec (.jp nnn) s = .next { s with pc := addressOperand nnn } := by
  simp [exec, execJp, State.setPc, State.markDirty]

theorem exec_jpV0 :
    exec (.jpV0 nnn) s = .next { s with pc := addressOperand nnn + s.wideReg 0 } := by
  simp [exec, execJpV0, State.setPc, State.markDirty]

theorem exec_seImm :
    exec (.seImm x nn) s = .next { s with pc := if s.reg x == nn then s.pc + 4 else s.pc + 2 } :=
  skipIf_eq _ s

theorem exec_sneImm :
    exec (.sneImm x nn) s = .next { s with pc := if s.reg x != nn then s.pc + 4 else s.pc + 2 } :=
  skipIf_eq _ s

theorem exec_seReg :
    exec (.seReg x y) s = .next { s with pc := if s.reg x == s.reg y then s.pc + 4 else s.pc + 2 } :=
  skipIf_eq _ s

theorem exec_sneReg :
    exec (.sneReg x y) s = .next { s with pc := if s.reg x != s.reg y then s.pc + 4 else s.pc + 2 } :=
  skipIf_eq _ s

theorem exec_skp :
    exec (.skp x) s = .next { s with pc := if s.keyNamedBy x then s.pc + 4 else s.pc + 2 } :=
  skipIf_eq _ s

theorem exec_sknp :
    exec (.sknp x) s = .next { s with pc := if !s.keyNamedBy x then s.pc + 4 else s.pc + 2 } :=
  skipIf_eq _ s

/-! ### Register loads and arithmetic -/

theorem exec_ldImm :
    exec (.ldImm x nn) s = .next { s with v := s.v.set x nn, pc := s.pc + 2 } := by
  simp [exec, execLdImm, writeReg, State.setReg, State.setPc, State.markDirty]

theorem exec_addImm :
    exec (.addImm x nn) s = .next { s with v := s.v.set x (s.reg x + nn), pc := s.pc + 2 } := by
  simp [exec, execAddImm, writeReg, State.setReg, State.setPc, State.markDirty]

theorem exec_ldReg :
    exec (.ldReg x y) s = .next { s with v := s.v.set x (s.reg y), pc := s.pc + 2 } := by
  simp [exec, execLdReg, writeReg, State.setReg, State.setPc, State.markDirty]

theorem exec_or :
    exec (.or x y) s = .next { s with v := s.v.set x (s.reg x ||| s.reg y), pc := s.pc + 2 } := by
  simp [exec, execOr, writeReg, State.setReg, State.setPc, State.markDirty]

theorem exec_and :
    exec (.and x y) s = .next { s with v := s.v.set x (s.reg x &&& s.reg y), pc := s.pc + 2 } := by
  simp [exec, execAnd, writeReg, State.setReg, State.setPc, State.markDirty]

theorem exec_xor :
    exec (.xor x y) s = .next { s with v := s.v.set x (s.reg x ^^^ s.reg y), pc := s.pc + 2 } := by
  simp [exec, execXor, writeReg, State.setReg, State.setPc, State.markDirty]

theorem exec_addReg :
    exec (.addReg x y) s = .next { s with v := (s.v.set x (s.reg x + s.reg y)).set 15 (carryFlag (s.reg x) (s.reg y)), pc := s.pc + 2 } := by
  simp [exec, execAddReg, writeRegAndFlag, State.setRegAndFlag, State.setReg, State.setPc, State.markDirty]

theorem exec_sub :
    exec (.sub x y) s = .next { s with v := (s.v.set x (s.reg x - s.reg y)).set 15 (notBorrowFlag (s.reg x) (s.reg y)), pc := s.pc + 2 } := by
  simp [exec, execSub, writeRegAndFlag, State.setRegAndFlag, State.setReg, State.setPc, State.markDirty]

theorem exec_subn :
    exec (.subn x y) s = .next { s with v := (s.v.set x (s.reg y - s.reg x)).set 15 (notBorrowFlag (s.reg y) (s.reg x)), pc := s.pc + 2 } := by
  simp [exec, execSubn, writeRegAndFlag, State.setRegAndFlag, State.setReg, State.setPc, State.markDirty]

theorem exec_shr :
    exec (.shr x y) s = .next { s with v := (s.v.set x (s.shiftSource x y >>> 1)).set 15 (shiftedOutRight (s.shiftSource x y)), pc := s.pc + 2 } := by
  simp [exec, execShr, writeRegAndFlag, State.setRegAndFlag, State.setReg, State.setPc, State.markDirty]

theorem exec_shl :
    exec (.shl x y) s = .next { s with v := (s.v.set x (s.shiftSource x y <<< 1)).set 15 (shiftedOutLeft (s.shiftSource x y)), pc := s.pc + 2 } := by
  simp [exec, execShl, writeRegAndFlag, State.setRegAndFlag, State.setReg, State.setPc, State.markDirty]

/-! ### The index register and memory transfers -/

theorem exec_ldI :
    exec (.ldI nnn) s = .next { s with i := addressOperand nnn, pc := s.pc + 2 } := by
  simp [exec, execLdI, State.setIndex, State.setPc, State.markDirty]

theorem exec_ldF :
    exec (.ldF x) s = .next { s with i := glyphAddress s.config (s.reg x), pc := s.pc + 2 } := by
  simp [exec, execLdF, State.setIndex, State.setPc, State.markDirty]

theorem exec_addI :
    exec (.addI x) s = .next { s with
      i := s.i + s.wideReg x
      v := if s.config.quirks.indexOverflowFlag then s.v.set 15 (indexOverflow s.i (s.reg x)) else s.v
      pc := s.pc + 2 } := by
  cases h : s.config.quirks.indexOverflowFlag <;>
    simp [exec, execAddI, h, State.setIndex, State.setReg, State.setPc, State.markDirty]

theorem exec_ldB_error (a : Nat) (h : firstBad writable s.i.toNat 3 = some a) :
    exec (.ldB x) s = .next (s.takeError (.outOfBoundsAccess a)) := by
  simp [exec, execLdB, h]

theorem exec_ldB (h : firstBad writable s.i.toNat 3 = none) :
    exec (.ldB x) s = .next { s with mem := (s.writeBytes s.i.toNat (decimalDigits (s.reg x))).mem, pc := s.pc + 2 } := by
  simp only [exec, execLdB, h]
  rw [State.writeBytes_eq]
  simp [State.setPc, State.markDirty]

theorem exec_ldMemVx_error (a : Nat) (h : firstBad writable s.i.toNat (blockSize x) = some a) :
    exec (.ldMemVx x) s = .next (s.takeError (.outOfBoundsAccess a)) := by
  simp [exec, execLdMemVx, h]

theorem exec_ldMemVx (h : firstBad writable s.i.toNat (blockSize x) = none) :
    exec (.ldMemVx x) s = .next { s with
      mem := (s.writeBytes s.i.toNat ((blockRegs x).map s.reg)).mem
      i := s.indexAfterBlock x
      pc := s.pc + 2 } := by
  simp only [exec, execLdMemVx, h]
  rw [State.writeBytes_eq]
  simp [State.setPc, State.markDirty, State.setIndex]

theorem exec_ldVxMem_error (a : Nat) (h : firstBad readable s.i.toNat (blockSize x) = some a) :
    exec (.ldVxMem x) s = .next (s.takeError (.outOfBoundsAccess a)) := by
  simp [exec, execLdVxMem, h]

theorem exec_ldVxMem (h : firstBad readable s.i.toNat (blockSize x) = none) :
    exec (.ldVxMem x) s = .next { s with v := (s.loadBlock x).v, i := s.indexAfterBlock x, pc := s.pc + 2 } := by
  simp only [exec, execLdVxMem, h]
  rw [State.loadBlock_eq]
  simp [State.setPc, State.markDirty, State.setIndex]

/-! ### Display and random -/

theorem exec_cls :
    exec .cls s = .next { s with fb := Framebuffer.clear, displayDirty := true, pc := s.pc + 2 } := by
  simp [exec, execCls, State.setFb, State.setPc, State.markDirty]

theorem exec_drw_error (a : Nat) (h : firstBad readable s.i.toNat n.val = some a) :
    exec (.drw x y n) s = .next (s.takeError (.outOfBoundsAccess a)) := by
  simp [exec, execDrw, h]

/-- The framebuffer and the collision a sprite gives (R192). -/
def State.drawn (s : State) (x y : RegIdx) (n : Fin 16) : Framebuffer × Bool :=
  drawRows (s.reg x) (s.reg y) 0 (s.readBytes s.i.toNat n.val) (s.fb, false)

theorem exec_drw (h : firstBad readable s.i.toNat n.val = none) :
    exec (.drw x y n) s = .next { s with
      fb := (s.drawn x y n).1
      v := s.v.set 15 (collisionFlag (s.drawn x y n).2)
      displayDirty := true
      pc := s.pc + 2 } := by
  simp [exec, execDrw, h, State.drawn, State.setFb, State.setReg, State.setPc, State.markDirty]

theorem exec_rnd :
    exec (.rnd x nn) s = .next { s with v := s.v.set x (s.nextDraw &&& nn), draws := s.draws + 1, pc := s.pc + 2 } := by
  simp [exec, execRnd, State.countDraw, State.setReg, State.setPc, State.markDirty]

/-! ### Keys and timers -/

theorem exec_ldVxK :
    exec (.ldVxK x) s = .next { s with mode := .awaitingKey x } := by
  simp [exec, execLdVxK, State.setMode, State.setPc, State.markDirty]

theorem exec_ldVxDt :
    exec (.ldVxDt x) s = .next { s with v := s.v.set x s.dt, pc := s.pc + 2 } := by
  simp [exec, execLdVxDt, State.setReg, State.setPc, State.markDirty]

theorem exec_ldDtVx :
    exec (.ldDtVx x) s = .next { s with dt := s.reg x, pc := s.pc + 2 } := by
  simp [exec, execLdDtVx, State.setDelay, State.setPc, State.markDirty]

theorem exec_ldStVx :
    exec (.ldStVx x) s = .next { s.setSound (s.reg x) with pc := s.pc + 2 } := by
  simp [exec, execLdStVx, State.setSound, State.setPc, State.markDirty]

/-! ### System -/

theorem exec_sys :
    exec (.sys nnn) s = .next (s.takeError (.unrecognizedOpcode (nnn.setWidth 16))) := by
  simp [exec, execSys, encode, encodeA, placeField]

end Sys2Proof.Machine
end

