-- ==== Sys2Proof/Laws/Framebuffer.lean ====
section
/-! SUPPORT. The framebuffer: a pixel after a toggle, and a sprite's loop as the set of pixels it covers. -/

namespace Sys2Proof.Machine

/-- A pixel read after one pixel was toggled. -/
theorem Framebuffer.pixel_toggle (fb : Framebuffer) (px qx : Fin 64) (py qy : Fin 32) :
    Framebuffer.pixel (Framebuffer.toggle fb px py) qx qy =
      (Framebuffer.pixel fb qx qy ^^ (decide (qx = px) && decide (qy = py))) := by
  unfold Framebuffer.pixel Framebuffer.toggle
  by_cases hy : qy = py
  · subst hy
    by_cases hx : qx = px
    · subst hx; simp
    · have : px.val ≠ qx.val := fun e => hx (Fin.ext e.symm)
      simp [hx, this]
  · have : py.val ≠ qy.val := fun e => hy (Fin.ext e.symm)
    simp [hy, this]

/-- Every pixel of the clear framebuffer is clear. -/
@[simp] theorem Framebuffer.pixel_clear (px : Fin 64) (py : Fin 32) : Framebuffer.pixel Framebuffer.clear px py = false := by
  simp [Framebuffer.pixel, Framebuffer.clear]

/-- Some set bit of a sprite row lands on the column. -/
def rowCovers (x0 : Byte) (b : Byte) (qx : Fin 64) (columns : List Nat) : Bool :=
  columns.any (fun c => spriteBit b c && decide (wrapColumn x0 c = qx))

/-- Some set bit of the sprite rows from row `r` on lands on the pixel. -/
def rowsCover (x0 y0 : Byte) (r : Nat) (qx : Fin 64) (qy : Fin 32) : List Byte → Bool
  | [] => false
  | b :: bs => (decide (qy = wrapRow y0 r) && rowCovers x0 b qx (List.range 8)) || rowsCover x0 y0 (r + 1) qx qy bs

/-- One sprite pixel: the pixel is flipped where the bit is set, and a set pixel that is flipped is a hit. -/
theorem drawPixel_spec (px : Fin 64) (py : Fin 32) (bit : Bool) (acc : Framebuffer × Bool) :
    (∀ qx qy, Framebuffer.pixel (drawPixel px py bit acc).1 qx qy =
      (Framebuffer.pixel acc.1 qx qy ^^ (bit && (decide (qx = px) && decide (qy = py))))) ∧
    (drawPixel px py bit acc).2 = (acc.2 || (bit && Framebuffer.pixel acc.1 px py)) := by
  cases bit <;> simp [drawPixel, Framebuffer.pixel_toggle]

/-- Sprite columns that land on different screen columns: the covered pixels of the row are flipped, and a hit is a covered
pixel that was set. -/
theorem drawColumns_spec (x0 : Byte) (py : Fin 32) (b : Byte) (columns : List Nat)
    (hd : columns.Pairwise (fun c d => wrapColumn x0 c ≠ wrapColumn x0 d)) (acc : Framebuffer × Bool) :
    (∀ qx qy, Framebuffer.pixel
        (columns.foldl (fun acc c => drawPixel (wrapColumn x0 c) py (spriteBit b c) acc) acc).1 qx qy =
      (Framebuffer.pixel acc.1 qx qy ^^ (decide (qy = py) && rowCovers x0 b qx columns))) ∧
    ((columns.foldl (fun acc c => drawPixel (wrapColumn x0 c) py (spriteBit b c) acc) acc).2 = true ↔
      acc.2 = true ∨ ∃ qx, rowCovers x0 b qx columns = true ∧ Framebuffer.pixel acc.1 qx py = true) := by
  induction columns generalizing acc with
  | nil => simp [rowCovers]
  | cons c columns ih =>
    obtain ⟨hc, hd⟩ := List.pairwise_cons.mp hd
    obtain ⟨hp, hh⟩ := ih hd (drawPixel (wrapColumn x0 c) py (spriteBit b c) acc)
    obtain ⟨hp0, hh0⟩ := drawPixel_spec (wrapColumn x0 c) py (spriteBit b c) acc
    have hout : rowCovers x0 b (wrapColumn x0 c) columns = false := by
      simp only [rowCovers, List.any_eq_false]
      intro d hd'
      have : ¬ wrapColumn x0 d = wrapColumn x0 c := fun e => hc d hd' e.symm
      simp [this]
    have hcons : ∀ qx, rowCovers x0 b qx (c :: columns) =
        ((spriteBit b c && decide (wrapColumn x0 c = qx)) || rowCovers x0 b qx columns) := fun qx => by
      simp [rowCovers]
    refine ⟨fun qx qy => ?_, ?_⟩
    · rw [List.foldl_cons, hp, hp0, hcons]
      by_cases hx : qx = wrapColumn x0 c
      · subst hx; simp [hout, Bool.and_comm]
      · simp [hx, Ne.symm hx]
    · rw [List.foldl_cons, hh, hh0]
      constructor
      · rintro (h | ⟨qx, hq, hs⟩)
        · rcases Bool.or_eq_true_iff.mp h with h | h
          · exact .inl h
          · obtain ⟨h1, h2⟩ := Bool.and_eq_true_iff.mp h
            exact .inr ⟨wrapColumn x0 c, by simp [hcons, h1], h2⟩
        · have hne : qx ≠ wrapColumn x0 c := fun e => by rw [e, hout] at hq; cases hq
          exact .inr ⟨qx, by simp [hcons, hq], by simpa [hp0, hne] using hs⟩
      · rintro (h | ⟨qx, hq, hs⟩)
        · exact .inl (by simp [h])
        · by_cases hx : qx = wrapColumn x0 c
          · subst hx
            rw [hcons, hout] at hq
            exact .inl (by simp only [Bool.or_false, Bool.and_eq_true] at hq; simp [hq.1, hs])
          · refine .inr ⟨qx, ?_, by simpa [hp0, hx] using hs⟩
            simpa [hcons, Ne.symm hx] using hq

/-- The eight columns of a sprite row land on different screen columns (R191). -/
theorem wrapColumn_distinct (x0 : Byte) :
    (List.range 8).Pairwise (fun c d => wrapColumn x0 c ≠ wrapColumn x0 d) := by
  have key : ∀ c d, c < 8 → d < 8 → c ≠ d → wrapColumn x0 c ≠ wrapColumn x0 d := by
    intro c d hc hd hne e
    have := congrArg Fin.val e
    simp only [wrapColumn, Fin.ofNat] at this
    omega
  exact List.pairwise_iff_forall_sublist.mpr fun {c d} h => by
    have hlt : c < d := (List.pairwise_iff_forall_sublist.mp List.pairwise_lt_range) h
    have hm : d ∈ List.range 8 := h.subset (by simp)
    have hm := List.mem_range.mp hm
    exact key c d (by omega) hm (by omega)

/-- A sprite row: its covered pixels are flipped, and a hit is a covered pixel that was set. -/
theorem drawRow_spec (x0 : Byte) (py : Fin 32) (b : Byte) (acc : Framebuffer × Bool) :
    (∀ qx qy, Framebuffer.pixel (drawRow x0 py b acc).1 qx qy =
      (Framebuffer.pixel acc.1 qx qy ^^ (decide (qy = py) && rowCovers x0 b qx (List.range 8)))) ∧
    ((drawRow x0 py b acc).2 = true ↔
      acc.2 = true ∨ ∃ qx, rowCovers x0 b qx (List.range 8) = true ∧ Framebuffer.pixel acc.1 qx py = true) :=
  drawColumns_spec x0 py b (List.range 8) (wrapColumn_distinct x0) acc

/-- A pixel a later row covers is in none of the rows before it, as long as there are at most 32 rows. -/
theorem rowsCover_wrapRow (x0 y0 : Byte) (bs : List Byte) (r k : Nat) (hr : r < k) (hk : k + bs.length ≤ r + 32)
    (qx : Fin 64) : rowsCover x0 y0 k qx (wrapRow y0 r) bs = false := by
  induction bs generalizing k with
  | nil => rfl
  | cons b bs ih =>
    simp only [List.length_cons] at hk
    have hne : wrapRow y0 r ≠ wrapRow y0 k := fun e => by
      have := congrArg Fin.val e
      simp only [wrapRow, Fin.ofNat] at this
      omega
    simp [rowsCover, hne, ih (k + 1) (by omega) (by omega)]

/-- The rows of a sprite of at most 32 rows: the covered pixels are flipped, and a hit is a covered pixel that was set. -/
theorem drawRows_spec (x0 y0 : Byte) (bs : List Byte) (r : Nat) (hl : bs.length ≤ 32) (acc : Framebuffer × Bool) :
    (∀ qx qy, Framebuffer.pixel (drawRows x0 y0 r bs acc).1 qx qy =
      (Framebuffer.pixel acc.1 qx qy ^^ rowsCover x0 y0 r qx qy bs)) ∧
    ((drawRows x0 y0 r bs acc).2 = true ↔
      acc.2 = true ∨ ∃ qx qy, rowsCover x0 y0 r qx qy bs = true ∧ Framebuffer.pixel acc.1 qx qy = true) := by
  induction bs generalizing r acc with
  | nil => simp [drawRows, rowsCover]
  | cons b bs ih =>
    simp only [List.length_cons] at hl
    obtain ⟨hp, hh⟩ := ih (r + 1) (by omega) (drawRow x0 (wrapRow y0 r) b acc)
    obtain ⟨hp0, hh0⟩ := drawRow_spec x0 (wrapRow y0 r) b acc
    have hout : ∀ qx, rowsCover x0 y0 (r + 1) qx (wrapRow y0 r) bs = false := fun qx =>
      rowsCover_wrapRow x0 y0 bs r (r + 1) (by omega) (by omega) qx
    refine ⟨fun qx qy => ?_, ?_⟩
    · rw [drawRows, hp, hp0, rowsCover]
      by_cases hy : qy = wrapRow y0 r
      · subst hy; simp [hout]
      · simp [hy]
    · rw [drawRows, hh, hh0]
      constructor
      · rintro ((h | ⟨qx, hq, hs⟩) | ⟨qx, qy, hq, hs⟩)
        · exact .inl h
        · exact .inr ⟨qx, wrapRow y0 r, by simp [rowsCover, hq], hs⟩
        · have hne : qy ≠ wrapRow y0 r := fun e => by rw [e, hout] at hq; cases hq
          exact .inr ⟨qx, qy, by simp [rowsCover, hq], by simpa [hp0, hne] using hs⟩
      · rintro (h | ⟨qx, qy, hq, hs⟩)
        · exact .inl (.inl h)
        · by_cases hy : qy = wrapRow y0 r
          · subst hy
            exact .inl (.inr ⟨qx, by simpa [rowsCover, hout] using hq, hs⟩)
          · exact .inr ⟨qx, qy, by simpa [rowsCover, hy] using hq, by simpa [hp0, hy] using hs⟩

end Sys2Proof.Machine
end

