-- ==== Sys2Proof/Laws/PerInstr.lean ====
section
/-! SUPPORT. Facts stated per instruction, one lemma per constructor. EncodingRow: the encoder writes a word of the
instruction's own row of the opcode table, with the row's fixed bits and every operand at its place. -/

namespace Sys2Proof.Laws.EncodingRow

/-- The word has the fixed bits of a row of the table, and that row reads the instruction back from it. -/
def Statement (i : Instr) : Prop :=
  ∃ r ∈ rows, r.matches (Sys2Proof.encode i) = true ∧ r.build (Sys2Proof.encode i) = i

/-- A row of the table that matches the word and builds the instruction. -/
theorem of_row {i : Instr} (k : Nat) (r : Row) (h : rows[k]? = some r)
    (hm : Sys2Proof.encode i &&& r.mask = r.pattern) (hb : r.build (Sys2Proof.encode i) = i) : Statement i :=
  ⟨r, List.mem_of_getElem? h, by simp [Row.matches, hm], hb⟩

theorem cls : Statement .cls :=
  of_row 0 _ rfl rfl rfl

theorem ret : Statement .ret :=
  of_row 1 _ rfl rfl rfl

theorem sys (nnn : BitVec 12) : Statement (.sys nnn) :=
  of_row 2 _ rfl (encodeA_and _ _) (by simp [Sys2Proof.encode])

theorem jp (nnn : BitVec 12) : Statement (.jp nnn) :=
  of_row 3 _ rfl (encodeA_and _ _) (by simp [Sys2Proof.encode])

theorem call (nnn : BitVec 12) : Statement (.call nnn) :=
  of_row 4 _ rfl (encodeA_and _ _) (by simp [Sys2Proof.encode])

theorem seImm (x : RegIdx) (nn : Byte) : Statement (.seImm x nn) :=
  of_row 5 _ rfl (encodeXNN_and _ _ _) (by simp [Sys2Proof.encode])

theorem sneImm (x : RegIdx) (nn : Byte) : Statement (.sneImm x nn) :=
  of_row 6 _ rfl (encodeXNN_and _ _ _) (by simp [Sys2Proof.encode])

theorem seReg (x : RegIdx) (y : RegIdx) : Statement (.seReg x y) :=
  of_row 7 _ rfl (encodeXYN_and_sub _ _ _ _) (by simp [Sys2Proof.encode])

theorem ldImm (x : RegIdx) (nn : Byte) : Statement (.ldImm x nn) :=
  of_row 8 _ rfl (encodeXNN_and _ _ _) (by simp [Sys2Proof.encode])

theorem addImm (x : RegIdx) (nn : Byte) : Statement (.addImm x nn) :=
  of_row 9 _ rfl (encodeXNN_and _ _ _) (by simp [Sys2Proof.encode])

theorem ldReg (x : RegIdx) (y : RegIdx) : Statement (.ldReg x y) :=
  of_row 10 _ rfl (encodeXYN_and_sub _ _ _ _) (by simp [Sys2Proof.encode])

theorem or (x : RegIdx) (y : RegIdx) : Statement (.or x y) :=
  of_row 11 _ rfl (encodeXYN_and_sub _ _ _ _) (by simp [Sys2Proof.encode])

theorem and (x : RegIdx) (y : RegIdx) : Statement (.and x y) :=
  of_row 12 _ rfl (encodeXYN_and_sub _ _ _ _) (by simp [Sys2Proof.encode])

theorem xor (x : RegIdx) (y : RegIdx) : Statement (.xor x y) :=
  of_row 13 _ rfl (encodeXYN_and_sub _ _ _ _) (by simp [Sys2Proof.encode])

theorem addReg (x : RegIdx) (y : RegIdx) : Statement (.addReg x y) :=
  of_row 14 _ rfl (encodeXYN_and_sub _ _ _ _) (by simp [Sys2Proof.encode])

theorem sub (x : RegIdx) (y : RegIdx) : Statement (.sub x y) :=
  of_row 15 _ rfl (encodeXYN_and_sub _ _ _ _) (by simp [Sys2Proof.encode])

theorem shr (x : RegIdx) (y : RegIdx) : Statement (.shr x y) :=
  of_row 16 _ rfl (encodeXYN_and_sub _ _ _ _) (by simp [Sys2Proof.encode])

theorem subn (x : RegIdx) (y : RegIdx) : Statement (.subn x y) :=
  of_row 17 _ rfl (encodeXYN_and_sub _ _ _ _) (by simp [Sys2Proof.encode])

theorem shl (x : RegIdx) (y : RegIdx) : Statement (.shl x y) :=
  of_row 18 _ rfl (encodeXYN_and_sub _ _ _ _) (by simp [Sys2Proof.encode])

theorem sneReg (x : RegIdx) (y : RegIdx) : Statement (.sneReg x y) :=
  of_row 19 _ rfl (encodeXYN_and_sub _ _ _ _) (by simp [Sys2Proof.encode])

theorem ldI (nnn : BitVec 12) : Statement (.ldI nnn) :=
  of_row 20 _ rfl (encodeA_and _ _) (by simp [Sys2Proof.encode])

theorem jpV0 (nnn : BitVec 12) : Statement (.jpV0 nnn) :=
  of_row 21 _ rfl (encodeA_and _ _) (by simp [Sys2Proof.encode])

theorem rnd (x : RegIdx) (nn : Byte) : Statement (.rnd x nn) :=
  of_row 22 _ rfl (encodeXNN_and _ _ _) (by simp [Sys2Proof.encode])

theorem drw (x : RegIdx) (y : RegIdx) (n : Fin 16) : Statement (.drw x y n) :=
  of_row 23 _ rfl (encodeXYN_and _ _ _ _) (by simp [Sys2Proof.encode])

theorem skp (x : RegIdx) : Statement (.skp x) :=
  of_row 24 _ rfl (encodeXNN_and_sub _ _ _) (by simp [Sys2Proof.encode])

theorem sknp (x : RegIdx) : Statement (.sknp x) :=
  of_row 25 _ rfl (encodeXNN_and_sub _ _ _) (by simp [Sys2Proof.encode])

theorem ldVxDt (x : RegIdx) : Statement (.ldVxDt x) :=
  of_row 26 _ rfl (encodeXNN_and_sub _ _ _) (by simp [Sys2Proof.encode])

theorem ldVxK (x : RegIdx) : Statement (.ldVxK x) :=
  of_row 27 _ rfl (encodeXNN_and_sub _ _ _) (by simp [Sys2Proof.encode])

theorem ldDtVx (x : RegIdx) : Statement (.ldDtVx x) :=
  of_row 28 _ rfl (encodeXNN_and_sub _ _ _) (by simp [Sys2Proof.encode])

theorem ldStVx (x : RegIdx) : Statement (.ldStVx x) :=
  of_row 29 _ rfl (encodeXNN_and_sub _ _ _) (by simp [Sys2Proof.encode])

theorem addI (x : RegIdx) : Statement (.addI x) :=
  of_row 30 _ rfl (encodeXNN_and_sub _ _ _) (by simp [Sys2Proof.encode])

theorem ldF (x : RegIdx) : Statement (.ldF x) :=
  of_row 31 _ rfl (encodeXNN_and_sub _ _ _) (by simp [Sys2Proof.encode])

theorem ldB (x : RegIdx) : Statement (.ldB x) :=
  of_row 32 _ rfl (encodeXNN_and_sub _ _ _) (by simp [Sys2Proof.encode])

theorem ldMemVx (x : RegIdx) : Statement (.ldMemVx x) :=
  of_row 33 _ rfl (encodeXNN_and_sub _ _ _) (by simp [Sys2Proof.encode])

theorem ldVxMem (x : RegIdx) : Statement (.ldVxMem x) :=
  of_row 34 _ rfl (encodeXNN_and_sub _ _ _) (by simp [Sys2Proof.encode])

end Sys2Proof.Laws.EncodingRow
end

