-- ==== Sys2Proof/Laws/Sprites.lean ====
section
/-! SUPPORT. A draw in the terms claims use: the pixels the sprite covers (R191, R192). -/

namespace Sys2Proof.Machine

/-- The rows read from memory cover a pixel exactly when one of their set bits lands on it, counting rows from `r`. -/
theorem rowsCover_readBytes (s : State) (x0 y0 : Byte) (n r a : Nat) (px : Fin 64) (py : Fin 32) :
    rowsCover x0 y0 r px py (s.readBytes a n) = true ↔
      ∃ k c, k < n ∧ c < 8 ∧ px.val = (x0.toNat + c) % 64 ∧ py.val = (y0.toNat + (r + k)) % 32 ∧
        (s.readByte (a + k)).getLsbD (7 - c) = true := by
  induction n generalizing r a with
  | zero => simp [State.readBytes, rowsCover]
  | succ n ih =>
    have hb : s.readBytes a (n + 1) = s.readByte a :: s.readBytes (a + 1) n := by simp [State.readBytes, List.range'_succ]
    have hrow : (decide (py = wrapRow y0 r) && rowCovers x0 (s.readByte a) px (List.range 8)) = true ↔
        ∃ c, c < 8 ∧ px.val = (x0.toNat + c) % 64 ∧ py.val = (y0.toNat + r) % 32 ∧
          (s.readByte a).getLsbD (7 - c) = true := by
      simp only [rowCovers, Bool.and_eq_true, decide_eq_true_eq, List.any_eq_true, List.mem_range, spriteBit, wrapRow,
        wrapColumn, Fin.ext_iff, Fin.ofNat]
      constructor
      · rintro ⟨h1, c, h2, h3, h4⟩
        exact ⟨c, h2, h4.symm, h1, h3⟩
      · rintro ⟨c, h2, h4, h1, h3⟩
        exact ⟨h1, c, h2, h3, h4.symm⟩
    rw [hb, rowsCover, Bool.or_eq_true, ih, hrow]
    constructor
    · rintro (⟨c, h⟩ | ⟨k, c, h1, h2, h3, h4, h5⟩)
      · exact ⟨0, c, by omega, h⟩
      · exact ⟨k + 1, c, by omega, h2, h3, by rw [h4]; congr 1; omega, by rw [← h5]; congr 2; omega⟩
    · rintro ⟨k, c, h1, h2, h3, h4, h5⟩
      cases k with
      | zero => exact .inl ⟨c, h2, h3, h4, h5⟩
      | succ k => exact .inr ⟨k, c, by omega, h2, h3, by rw [h4]; congr 1; omega, by rw [← h5]; congr 2; omega⟩

/-- What the drawing operation covers is what `SpriteCovers` says. -/
theorem rowsCover_iff_spriteCovers (s : State) (x y : RegIdx) (n : Fin 16) (px : Fin 64) (py : Fin 32) :
    rowsCover (s.reg x) (s.reg y) 0 px py (s.readBytes s.i.toNat n.val) = true ↔ SpriteCovers s x y n px py := by
  simp [rowsCover_readBytes, SpriteCovers]

/-- The bytes a draw reads all exist: no address offends (R55, R192). -/
theorem firstBad_readable_eq_none (a n : Nat) :
    firstBad readable a n = none ↔ ∀ r, r < n → a + r < 0x1000 := by
  simp only [firstBad_eq_none, readable, decide_eq_true_eq]
  constructor
  · exact fun h r hr => h (a + r) (by omega) (by omega)
  · intro h b h1 h2
    have := h (b - a) (by omega)
    omega

/-- A drawn pixel is the old one, flipped where the sprite covers it (R192). -/
theorem State.drawn_pixel (s : State) (x y : RegIdx) (n : Fin 16) (px : Fin 64) (py : Fin 32) :
    Framebuffer.pixel (s.drawn x y n).1 px py =
      (Framebuffer.pixel s.fb px py ^^ rowsCover (s.reg x) (s.reg y) 0 px py (s.readBytes s.i.toNat n.val)) :=
  (drawRows_spec (s.reg x) (s.reg y) (s.readBytes s.i.toNat n.val) 0 (by simp [State.readBytes]; omega) (s.fb, false)).1 px py

/-- A draw collides exactly when the sprite covers a set pixel (R192). -/
theorem State.drawn_collides (s : State) (x y : RegIdx) (n : Fin 16) :
    (s.drawn x y n).2 = true ↔ ∃ px py, SpriteCovers s x y n px py ∧ Framebuffer.pixel s.fb px py = true := by
  refine (drawRows_spec (s.reg x) (s.reg y) (s.readBytes s.i.toNat n.val) 0 (by simp [State.readBytes]; omega)
    (s.fb, false)).2.trans ?_
  simp [rowsCover_iff_spriteCovers]

end Sys2Proof.Machine
end

