-- ==== Sys2Proof/Tests/Slice0.lean ====
section
/-! SUPPORT. The model's own tests. Expected results are the vectors of 95_test_vectors.md (named by their ids) or are written
out by hand from the rules; a witness theorem shows that the hypotheses of an obligation can be met. -/

namespace Sys2Proof.Tests

open Sys2Proof.Machine

/-! ### WellFormed: each check refuses an ill-formed term (R75, R230) -/

theorem smoke_sys_is_not_cls : (Instr.sys 0x0E0).wellFormed = false := by decide
theorem smoke_sys_is_not_ret : (Instr.sys 0x0EE).wellFormed = false := by decide
theorem smoke_descriptor_sys : (Descriptor.instr (.sys 0x0EE)).wellFormed = false := by decide

/-! ### Decoding: words written out from 30_encoding.md, class nibble, fields, low bits -/

theorem test_decode_exact : decode 0b0000_0000_1110_0000 = .instr .cls ∧ decode 0b0000_0000_1110_1110 = .instr .ret := by
  decide
/-- DC3 to DC5. -/
theorem test_decode_sys : decode 0x00E1 = .instr (.sys 0x0E1) ∧ decode 0x0000 = .instr (.sys 0x000) ∧
    decode 0x0FFF = .instr (.sys 0xFFF) := by decide
/-- DC6, DC7, DC16. -/
theorem test_decode_addresses : decode 0b0001_1010_1011_1100 = .instr (.jp 0xABC) ∧ decode 0x2000 = .instr (.call 0x000) ∧
    decode 0b1010_0010_1111_0000 = .instr (.ldI 0x2F0) ∧ decode 0xB123 = .instr (.jpV0 0x123) := by decide
/-- DC8, DC9, DC14. -/
theorem test_decode_skips : decode 0x3F00 = .instr (.seImm 0xF 0x00) ∧ decode 0b0100_0011_0010_1010 = .instr (.sneImm 3 0x2A) ∧
    decode 0x5120 = .instr (.seReg 1 2) ∧ decode 0x9AB0 = .instr (.sneReg 0xA 0xB) := by decide
theorem test_decode_immediates : decode 0b0110_0000_0000_0101 = .instr (.ldImm 0 0x05) ∧
    decode 0x7105 = .instr (.addImm 1 0x05) ∧ decode 0b1100_0011_0000_1111 = .instr (.rnd 3 0x0F) := by decide
/-- DC13 and the rows of class 8. -/
theorem test_decode_class8 : decode 0b1000_0001_0010_0000 = .instr (.ldReg 1 2) ∧ decode 0x8121 = .instr (.or 1 2) ∧
    decode 0x8122 = .instr (.and 1 2) ∧ decode 0x8113 = .instr (.xor 1 1) ∧ decode 0x8F24 = .instr (.addReg 0xF 2) ∧
    decode 0x8125 = .instr (.sub 1 2) ∧ decode 0x8126 = .instr (.shr 1 2) ∧ decode 0x81F7 = .instr (.subn 1 0xF) ∧
    decode 0b1000_1010_1011_1110 = .instr (.shl 0xA 0xB) := by decide
/-- DC17. -/
theorem test_decode_draw : decode 0xD120 = .instr (.drw 1 2 0) ∧ decode 0b1101_0000_0001_0101 = .instr (.drw 0 1 5) := by
  decide
/-- DC18 and the rows of class E. -/
theorem test_decode_keys : decode 0b1110_0001_1001_1110 = .instr (.skp 1) ∧ decode 0xE2A1 = .instr (.sknp 2) := by decide
/-- DC20, DC24 and the rows of class F. -/
theorem test_decode_classF : decode 0b1111_0100_0000_0111 = .instr (.ldVxDt 4) ∧ decode 0xF10A = .instr (.ldVxK 1) ∧
    decode 0xF415 = .instr (.ldDtVx 4) ∧ decode 0xF418 = .instr (.ldStVx 4) ∧ decode 0xF11E = .instr (.addI 1) ∧
    decode 0xF129 = .instr (.ldF 1) ∧ decode 0xF133 = .instr (.ldB 1) ∧ decode 0xFF55 = .instr (.ldMemVx 0xF) ∧
    decode 0xFF65 = .instr (.ldVxMem 0xF) := by decide
/-- DC10 to DC12, DC15, DC19, DC21 to DC23: reserved words do not fall through to a neighbour. -/
theorem test_decode_unrecognized : decode 0x5121 = .unrecognized 0x5121 ∧ decode 0x8008 = .unrecognized 0x8008 ∧
    decode 0x800F = .unrecognized 0x800F ∧ decode 0x9AB1 = .unrecognized 0x9AB1 ∧ decode 0xE19F = .unrecognized 0xE19F ∧
    decode 0xF108 = .unrecognized 0xF108 ∧ decode 0xF000 = .unrecognized 0xF000 ∧ decode 0xFFFF = .unrecognized 0xFFFF := by
  decide
/-- R53: the byte at the lower address is the high byte. -/
theorem test_decode_bytes : decodeBytes [0x60, 0x05, 0xFF] = .ok (.ldImm 0 0x05, [0xFF]) := by decide
theorem test_decode_table_word : decodeTableWord 16 0x6005 = some (.ldImm 0 0x05) ∧ decodeTableWord 16 0x5121 = none := by
  decide

/-! ### One step on a small state -/

/-- The machine after reset with some registers set. -/
def withRegs (l : List (RegIdx × Byte)) : State := l.foldl (fun s p => s.setReg p.1 p.2) State.reset

/-- What is seen of the next state when the very next instruction is `w`. -/
def seen {α : Type} (s : State) (w : Nat) (look : State → α) : Option α :=
  match step (s.withFetchWord 16 w) with
  | .next t => some (look t)
  | .fault _ | .refused _ => none

/-- What is seen after an event. -/
def seenEvent {α : Type} (s : State) (e : Event) (look : State → α) : Option α :=
  match runEvent e s with
  | .next t => some (look t)
  | .fault _ | .refused _ => none

/-- A configuration with the three quirks given. -/
def withQuirks (s : State) (shift block index : Bool) : State :=
  { s with config := { s.config with quirks := ⟨shift, block, index⟩ } }

/-- The default configuration, halting on errors. -/
def halting (s : State) : State := { s with config := { s.config with haltOnError := true } }

/-- Some bytes in memory. -/
def withBytes (s : State) (l : List (Nat × Byte)) : State := l.foldl (fun s p => s.writeByte p.1 p.2) s

/-- The keys that are down. -/
def keysDown (l : List KeyIdx) : Keys := l.foldl (fun k (i : KeyIdx) => k.set i true) (.replicate 16 false)

/-- The pixels that are set in a row, as column numbers. -/
def rowPixels (fb : Framebuffer) (py : Fin 32) : List (Fin 64) :=
  (List.finRange 64).filter (fun px => Framebuffer.pixel fb px py)

/-! Fetch and PC -/

/-- FE1: an odd PC executes. -/
theorem test_fetch_odd_pc : seen { State.reset with pc := 0x201 } 0x6007 (fun t => (t.reg 0, t.pc)) = some (7, 0x203) := by
  decide
/-- FE2, FE3. -/
theorem test_fetch_last_word : seen { State.reset with pc := 0xFFE } 0x6001 (fun t => (t.reg 0, t.pc)) = some (1, 0x1000) ∧
    seenEvent { State.reset with pc := 0xFFF } .step (fun t => (t.pc, t.reports)) =
      some (0x1001, [⟨.outOfBoundsAccess 0x1000, 0xFFF⟩]) := by decide
/-- FE5, FE6. -/
theorem test_fetch_outside : seenEvent (halting { State.reset with pc := 0x1000 }) .step (fun t => (t.pc, t.mode)) =
      some (0x1000, .halted (.outOfBoundsAccess 0x1000)) ∧
    seenEvent { State.reset with pc := 0xFFFE } .step (fun t => (t.pc, t.reports)) =
      some (0x0000, [⟨.outOfBoundsAccess 0xFFFE, 0xFFFE⟩]) := by decide
/-- FE7. -/
theorem test_awaiting_does_not_execute : seenEvent { State.reset with mode := .awaitingKey 3 } .step (fun t => (t.pc, t.mode)) =
    some (0x200, .awaitingKey 3) := by decide

/-! Control transfer -/

/-- CT2. -/
theorem test_jp : seen State.reset 0x1FFF State.pc = some 0x0FFF := by decide
/-- CT3, CT4. -/
theorem test_jpV0 : seen (withRegs [(0, 0xFF)]) 0xBFFF State.pc = some 0x10FE ∧
    seen (withRegs [(0, 0x01), (5, 0x40)]) 0xB5F0 State.pc = some 0x05F1 := by decide
/-- CT5, CT19. -/
theorem test_call : seen { State.reset with pc := 0x202 } 0x2300 (fun t => (t.stack, t.pc)) = some ([0x204], 0x300) ∧
    seen { State.reset with pc := 0x400, stack := .replicate 15 0x202 } 0x2500 (fun t => (t.stack.length, t.pc)) =
      some (16, 0x500) := by decide
/-- CT7. -/
theorem test_call_overflow : seen { State.reset with pc := 0x400, stack := .replicate 16 0x202 } 0x2500
    (fun t => (t.stack.length, t.pc, t.reports)) = some (16, 0x402, [⟨.stackOverflow, 0x400⟩]) := by decide
/-- CT6. -/
theorem test_ret : seen { State.reset with pc := 0x300, stack := [0x208, 0x204] } 0x00EE (fun t => (t.stack, t.pc)) =
    some ([0x208], 0x204) := by decide
/-- CT8, CT9. -/
theorem test_ret_underflow : seen { State.reset with pc := 0x400 } 0x00EE (fun t => (t.pc, t.reports)) =
      some (0x402, [⟨.stackUnderflow, 0x400⟩]) ∧
    seen (halting { State.reset with pc := 0x400 }) 0x00EE (fun t => (t.pc, t.mode)) =
      some (0x400, .halted .stackUnderflow) := by decide
/-- CT10, CT11. -/
theorem test_seImm : seen (withRegs [(3, 0x2A)]) 0x332A State.pc = some 0x204 ∧
    seen (withRegs [(3, 0x2B)]) 0x332A State.pc = some 0x202 := by decide
/-- CT12, CT13. -/
theorem test_sneImm : seen (withRegs [(3, 0x2A)]) 0x432A State.pc = some 0x202 ∧
    seen State.reset 0x432A State.pc = some 0x204 := by decide
/-- CT14; and from R127 two registers that differ. -/
theorem test_seReg : seen (withRegs [(1, 7)]) 0x5110 State.pc = some 0x204 ∧
    seen (withRegs [(1, 1), (2, 2)]) 0x5120 State.pc = some 0x202 := by decide
/-- CT15, CT16. -/
theorem test_sneReg : seen (withRegs [(1, 7)]) 0x9110 State.pc = some 0x202 ∧
    seen (withRegs [(1, 1), (2, 2)]) 0x9120 State.pc = some 0x204 := by decide
/-- CT17, CT18: the skipped word is neither decoded nor fetched. -/
theorem test_skip_does_not_fetch :
    seen (withBytes State.reset [(0x202, 0xFF), (0x203, 0xFF)]) 0x3000 (fun t => (t.pc, t.reports)) = some (0x204, []) ∧
    seen { State.reset with pc := 0xFFE } 0x3000 (fun t => (t.pc, t.reports)) = some (0x1002, []) := by decide

/-! Register loads and arithmetic: `V1`, `V2`, `VF` before and after -/

/-- The registers the vectors of 42_alu.md speak of. -/
def abf (t : State) : Byte × Byte × Byte := (t.reg 1, t.reg 2, t.reg 15)

/-- AL20. -/
theorem test_ldImm : seen State.reset 0x6FAB abf = some (0, 0, 0xAB) := by decide
/-- AL1, AL2. -/
theorem test_addImm : seen (withRegs [(1, 0xFF), (15, 7)]) 0x7105 abf = some (4, 0, 7) ∧
    seen (withRegs [(15, 0xFF)]) 0x7F01 abf = some (0, 0, 0) := by decide
/-- AL19. -/
theorem test_ldReg : seen (withRegs [(2, 0x33)]) 0x8120 abf = some (0x33, 0x33, 0) := by decide
/-- AL16. -/
theorem test_or : seen (withRegs [(1, 0x0F), (2, 0xF0), (15, 1)]) 0x8121 abf = some (0xFF, 0xF0, 1) := by decide
/-- AL17. -/
theorem test_and : seen (withRegs [(1, 0x3C), (2, 0x0F), (15, 1)]) 0x8122 abf = some (0x0C, 0x0F, 1) := by decide
/-- AL18; and from R146 two operands. -/
theorem test_xor : seen (withRegs [(1, 0x5A)]) 0x8113 abf = some (0, 0, 0) ∧
    seen (withRegs [(1, 0x3C), (2, 0x0F), (15, 1)]) 0x8123 abf = some (0x33, 0x0F, 1) := by decide
/-- AL3 to AL6. -/
theorem test_addReg : seen (withRegs [(1, 0x10), (2, 0x20), (15, 1)]) 0x8124 abf = some (0x30, 0x20, 0) ∧
    seen (withRegs [(1, 0xFF), (2, 0x01)]) 0x8124 abf = some (0, 1, 1) ∧
    seen (withRegs [(1, 0xFF), (2, 0xFF)]) 0x8124 abf = some (0xFE, 0xFF, 1) ∧
    seen (withRegs [(1, 0x80)]) 0x8114 abf = some (0, 0, 1) := by decide
/-- AL7, AL8. -/
theorem test_addReg_flag : seen (withRegs [(2, 0x0A), (15, 5)]) 0x8F24 abf = some (0, 0x0A, 0) ∧
    seen (withRegs [(1, 5), (15, 1)]) 0x81F4 abf = some (6, 0, 0) := by decide
/-- AL9 to AL11. -/
theorem test_sub : seen (withRegs [(1, 5), (2, 5)]) 0x8125 abf = some (0, 5, 1) ∧
    seen (withRegs [(2, 1), (15, 1)]) 0x8125 abf = some (0xFF, 1, 0) ∧
    seen (withRegs [(1, 0x10), (2, 1)]) 0x8125 abf = some (0x0F, 1, 1) := by decide
/-- AL12. -/
theorem test_sub_flag : seen (withRegs [(2, 1), (15, 3)]) 0x8F25 abf = some (0, 1, 1) := by decide
/-- AL13 to AL15. -/
theorem test_subn : seen (withRegs [(1, 3), (2, 5)]) 0x8127 abf = some (2, 5, 1) ∧
    seen (withRegs [(1, 5), (2, 3), (15, 1)]) 0x8127 abf = some (0xFE, 3, 0) ∧
    seen (withRegs [(1, 4), (2, 4)]) 0x8127 abf = some (0, 4, 1) := by decide
/-- SH1 to SH4. -/
theorem test_shr : seen (withRegs [(2, 5)]) 0x8126 abf = some (2, 5, 1) ∧
    seen (withQuirks (withRegs [(2, 5)]) false true false) 0x8126 abf = some (0, 5, 0) ∧
    seen (withRegs [(1, 0xFF), (2, 4)]) 0x8126 abf = some (2, 4, 0) ∧
    seen (withQuirks (withRegs [(1, 0xFF), (2, 4)]) false true false) 0x8126 abf = some (0x7F, 4, 1) := by decide
/-- SH9, SH10. -/
theorem test_shr_flag : seen (withRegs [(2, 3), (15, 0xFF)]) 0x8F26 abf = some (0, 3, 1) ∧
    seen (withQuirks (withRegs [(2, 3), (15, 0xFF)]) false true false) 0x8F26 abf = some (0, 3, 1) := by decide
/-- SH5 to SH8. -/
theorem test_shl : seen (withRegs [(1, 1), (2, 0x81)]) 0x812E abf = some (2, 0x81, 1) ∧
    seen (withQuirks (withRegs [(1, 1), (2, 0x81)]) false true false) 0x812E abf = some (2, 0x81, 0) ∧
    seen (withRegs [(1, 0x40), (2, 2)]) 0x812E abf = some (4, 2, 0) ∧
    seen (withQuirks (withRegs [(1, 0x40), (2, 2)]) false true false) 0x812E abf = some (0x80, 2, 0) := by decide
/-- SH11. -/
theorem test_shl_same : seen (withRegs [(1, 0x81)]) 0x811E abf = some (2, 0, 1) := by decide

/-! Index and memory -/

/-- IM1. -/
theorem test_ldI : seen State.reset 0xA2F0 State.i = some 0x2F0 := by decide
/-- IM2 to IM4. -/
theorem test_addI : seen { withRegs [(1, 1), (15, 0x55)] with i := 0xFFF } 0xF11E (fun t => (t.i, t.reg 15)) =
      some (0x1000, 0x55) ∧
    seen (withQuirks { withRegs [(1, 1)] with i := 0xFFF } true true true) 0xF11E (fun t => (t.i, t.reg 15)) =
      some (0x1000, 1) ∧
    seen (withQuirks { withRegs [(1, 0x10), (15, 1)] with i := 0x100 } true true true) 0xF11E (fun t => (t.i, t.reg 15)) =
      some (0x110, 0) := by decide
/-- IM5, IM6. -/
theorem test_addI_wrap : seen { withRegs [(1, 2)] with i := 0xFFFF } 0xF11E State.i = some 1 ∧
    seen (withQuirks { withRegs [(15, 0x20)] with i := 0x10 } true true true) 0xFF1E (fun t => (t.i, t.reg 15)) =
      some (0x30, 0) := by decide
/-- IM7 to IM9. -/
theorem test_ldF : seen (withRegs [(1, 0x0A)]) 0xF129 State.i = some 0x82 ∧
    seen (withRegs [(1, 0x1A)]) 0xF129 State.i = some 0x82 ∧ seen (withRegs [(1, 0x0F)]) 0xF129 State.i = some 0x9B := by
  decide
/-- IM10, IM12. -/
theorem test_ldB : seen { withRegs [(1, 0xFE)] with i := 0x300 } 0xF133 (fun t => (t.readBytes 0x300 3, t.i)) =
      some ([2, 5, 4], 0x300) ∧
    seen { withRegs [(1, 7)] with i := 0x300 } 0xF133 (fun t => t.readBytes 0x300 3) = some [0, 0, 7] := by decide
/-- IM13, IM14. -/
theorem test_ldB_error : seen { withRegs [(1, 123)] with i := 0xFFE } 0xF133
      (fun t => (t.readBytes 0xFFE 2, t.reports, t.pc)) = some ([0, 0], [⟨.outOfBoundsAccess 0x1000, 0x200⟩], 0x202) ∧
    seen { State.reset with i := 0x1FF } 0xF133 State.reports = some [⟨.outOfBoundsAccess 0x1FF, 0x200⟩] := by decide
/-- IM15, IM16. -/
theorem test_ldMemVx : seen { withRegs [(0, 1), (1, 2)] with i := 0x300 } 0xF155 (fun t => (t.readBytes 0x300 3, t.i)) =
      some ([1, 2, 0], 0x302) ∧
    seen (withQuirks { withRegs [(0, 1), (1, 2)] with i := 0x300 } true false false) 0xF155
      (fun t => (t.readBytes 0x300 3, t.i)) = some ([1, 2, 0], 0x300) := by decide
/-- IM18, IM19. -/
theorem test_ldMemVx_error : seen { withRegs [(0, 1)] with i := 0xFF1 } 0xFF55
      (fun t => (t.readByte 0xFF1, t.i, t.reports)) = some (0, 0xFF1, [⟨.outOfBoundsAccess 0x1000, 0x200⟩]) ∧
    seen { State.reset with i := 0x1FE } 0xF255 State.reports = some [⟨.outOfBoundsAccess 0x1FE, 0x200⟩] := by decide
/-- IM21: the font's glyph 0. -/
theorem test_ldVxMem : seen { State.reset with i := 0x050 } 0xF465
    (fun t => (t.reg 0, t.reg 1, t.reg 2, t.reg 3, t.reg 4, t.reg 5, t.i)) =
      some (0xF0, 0x90, 0x90, 0x90, 0xF0, 0, 0x055) := by decide
/-- IM22, IM23. -/
theorem test_ldVxMem_edge : seen { withRegs [(0, 9)] with i := 0xFFF } 0xF165 (fun t => (t.reg 0, t.reports)) =
      some (9, [⟨.outOfBoundsAccess 0x1000, 0x200⟩]) ∧
    seen { withBytes State.reset [(0x30F, 0x42)] with i := 0x300 } 0xFF65 (fun t => t.reg 15) = some 0x42 := by decide

/-! Display and random -/

/-- DR1: one pixel set before. -/
theorem test_cls : seen { State.reset with fb := Framebuffer.toggle Framebuffer.clear 5 0, displayDirty := false } 0x00E0
    (fun t => (rowPixels t.fb 0, t.displayDirty)) = some ([], true) := by decide
/-- DR4: the sprite wraps around the right edge. -/
theorem test_drw_wrap : seen { withBytes (withRegs [(0, 60), (1, 31)]) [(0x300, 0xFF)] with i := 0x300 } 0xD011
    (fun t => (rowPixels t.fb 31, t.reg 15)) = some ([0, 1, 2, 3, 60, 61, 62, 63], 0) := by decide
/-- DR6, DR7: a pixel that goes from set to unset is a collision, a neighbour is none. -/
theorem test_drw_collision :
    seen { withBytes State.reset [(0x300, 0x80)] with i := 0x300, fb := Framebuffer.toggle Framebuffer.clear 0 0 } 0xD011
      (fun t => (rowPixels t.fb 0, t.reg 15)) = some ([], 1) ∧
    seen { withBytes State.reset [(0x300, 0x80)] with i := 0x300, fb := Framebuffer.toggle Framebuffer.clear 1 0 } 0xD011
      (fun t => (rowPixels t.fb 0, t.reg 15)) = some ([0, 1], 0) := by decide
/-- DR8, and R192 with `I` outside memory: height 0 reads no byte, clears `VF` and marks the display dirty. -/
theorem test_drw_empty : seen { withRegs [(15, 1)] with i := 0x1234, displayDirty := false } 0xD010
    (fun t => (t.reg 15, t.displayDirty, t.reports)) = some (0, true, []) := by decide
/-- DR11: the random byte is free; the mask is not. -/
theorem test_rnd : seen State.reset 0xC30F (fun t => t.reg 3) = some (Config.randomByte 0 &&& 0x0F) := by rfl

/-! Keys and timers -/

/-- KT1 to KT3. -/
theorem test_skp : seen { withRegs [(2, 5)] with keys := keysDown [5] } 0xE29E State.pc = some 0x204 ∧
    seen (withRegs [(2, 5)]) 0xE29E State.pc = some 0x202 ∧
    seen { withRegs [(2, 0x13)] with keys := keysDown [3] } 0xE29E State.pc = some 0x204 := by decide
/-- KT4, KT5. -/
theorem test_sknp : seen (withRegs [(2, 5)]) 0xE2A1 State.pc = some 0x204 ∧
    seen { withRegs [(2, 5)] with keys := keysDown [5] } 0xE2A1 State.pc = some 0x202 := by decide
/-- KT6. -/
theorem test_ldVxK : seen { withRegs [(3, 0x77)] with pc := 0x210 } 0xF30A (fun t => (t.mode, t.pc, t.reg 3)) =
    some (.awaitingKey 3, 0x210, 0x77) := by decide
/-- KT7, KT8. -/
theorem test_key_update : seenEvent { State.reset with pc := 0x210, mode := .awaitingKey 3 } (.keyUpdate (keysDown [7]))
      (fun t => (t.reg 3, t.pc, t.mode)) = some (7, 0x212, .running) ∧
    seenEvent { State.reset with pc := 0x210, mode := .awaitingKey 3 } (.keyUpdate (keysDown [9, 4]))
      (fun t => (t.reg 3, t.pc, t.mode)) = some (4, 0x212, .running) := by decide
/-- KT9, KT10: no edge. -/
theorem test_key_update_no_edge :
    seenEvent { State.reset with pc := 0x210, mode := .awaitingKey 3, keys := keysDown [7] } (.keyUpdate (keysDown [7]))
      (fun t => (t.pc, t.mode)) = some (0x210, .awaitingKey 3) ∧
    seenEvent { State.reset with pc := 0x210, mode := .awaitingKey 3, keys := keysDown [7] } (.keyUpdate (keysDown []))
      (fun t => (t.pc, t.mode, t.keys)) = some (0x210, .awaitingKey 3, keysDown []) := by decide
/-- KT13. -/
theorem test_ldVxDt : seen { State.reset with dt := 0x3C } 0xF407 (fun t => t.reg 4) = some 0x3C := by decide
/-- KT14. -/
theorem test_ldDtVx : seen (withRegs [(4, 0x3C)]) 0xF415 (fun t => (t.dt, t.st)) = some (0x3C, 0) := by decide
/-- KT15 to KT17. -/
theorem test_ldStVx : seen (withRegs [(4, 0x0A)]) 0xF418 (fun t => (t.st, t.soundNotes)) = some (0x0A, [true]) ∧
    seen { withRegs [(4, 9)] with st := 5 } 0xF418 (fun t => (t.st, t.soundNotes)) = some (9, []) ∧
    seen { State.reset with st := 5 } 0xF418 (fun t => (t.st, t.soundNotes)) = some (0, [false]) := by decide
/-- TM1, TM2. -/
theorem test_tick : seenEvent { State.reset with dt := 3, st := 1 } .tick (fun t => (t.dt, t.st, t.soundNotes)) =
      some (2, 0, [false]) ∧
    seenEvent State.reset .tick (fun t => (t.dt, t.st, t.soundNotes)) = some (0, 0, []) := by decide
/-- KT12, TM4. -/
theorem test_tick_modes : seenEvent { State.reset with dt := 2, mode := .awaitingKey 3 } .tick (fun t => (t.dt, t.mode)) =
      some (1, .awaitingKey 3) ∧
    seenEvent { State.reset with dt := 5, mode := .halted .stackOverflow } .tick State.dt = some 5 := by decide

/-! Unrecognized words and reset -/

/-- UN1. -/
theorem test_sys : seen State.reset 0x0123 (fun t => (t.pc, t.mode, t.reports)) =
    some (0x202, .running, [⟨.unrecognizedOpcode 0x0123, 0x200⟩]) := by decide
/-- UN2, UN3, UN4. -/
theorem test_unrecognized : seen State.reset 0x5121 (fun t => (t.pc, t.reports)) =
      some (0x202, [⟨.unrecognizedOpcode 0x5121, 0x200⟩]) ∧
    seen { State.reset with config := { defaultConfig with unrecognizedAdvances := false } } 0x5121
      (fun t => (t.pc, t.mode)) = some (0x200, .halted (.unrecognizedOpcode 0x5121)) ∧
    seen (halting State.reset) 0xFFFF (fun t => (t.pc, t.mode)) = some (0x200, .halted (.unrecognizedOpcode 0xFFFF)) := by
  decide
/-- UN5: what the machine right after reset does first, with no program loaded. -/
theorem test_reset_runs_zeroed_memory : seenEvent State.reset .step (fun t => (t.pc, t.reports)) =
    some (0x202, [⟨.unrecognizedOpcode 0x0000, 0x200⟩]) := by decide
/-- RS2. -/
theorem test_reset_event : seenEvent { State.reset with mode := .halted .stackOverflow, st := 4, pc := 0x208 }
    (.reset [0x12, 0x00]) (fun t => (t.mode, t.pc, t.soundNotes, t.readBytes 0x200 3)) =
      some (.running, 0x200, [false], [0x12, 0x00, 0x00]) := by decide

/-! ### Witnesses: states and operands that meet the hypotheses of the obligations, each clause at a boundary -/

/-- The machine after reset with its PC at `a`. -/
def pcAt (a : Word) : State := { State.reset with pc := a }

theorem reset_inv : State.reset.Inv :=
  { memory := ⟨List.Pairwise.nil, nofun⟩, reserved := nofun, depth := by decide, sound := by decide }

/-- DecodeOfEncodeIsTheInstruction: the operands at their ends, and `SYS` beside the words it is not. -/
theorem witness_well_formed : (Instr.drw 15 15 15).wellFormed = true ∧ (Instr.sys 0x0E1).wellFormed = true ∧
    (Instr.sys 0x0ED).wellFormed = true ∧ (Instr.ldImm 0 0).wellFormed = true := by decide

/-- DecodedInstructionsAreWellFormed. -/
theorem witness_decoded : decode 0x00E1 = .instr (.sys 0x0E1) ∧ decode 0xFF65 = .instr (.ldVxMem 15) := by decide

/-- StepRunsTheDecodedInstruction, with the last PC whose word lies in memory, and either schedule. -/
theorem witness_step_runs : ∃ (s : State) (i : Instr), s.mode = .running ∧ s.pc.toNat + 1 < 0x1000 ∧
    decodeBytes [s.readByte s.pc.toNat, s.readByte (s.pc.toNat + 1)] = .ok (i, []) ∧ i.wellFormed = true ∧
    s.schedule = [] ∧ { s with schedule := [.step, .tick] }.schedule = .step :: [.tick] :=
  ⟨withBytes (pcAt 0xFFE) [(0xFFE, 0x60), (0xFFF, 0x05)], .ldImm 0 5, by decide⟩

/-- FetchOutsideMemoryIsReported: both values of the reported address, at the first and the last PC. -/
theorem witness_fetch_outside :
    ((pcAt 0xFFF).mode = .running ∧ (pcAt 0xFFF).schedule = [] ∧ 0xFFF ≤ (pcAt 0xFFF).pc.toNat) ∧
    ((pcAt 0x1000).mode = .running ∧ (pcAt 0x1000).schedule = [] ∧ 0xFFF ≤ (pcAt 0x1000).pc.toNat) ∧
    ((pcAt 0xFFFF).mode = .running ∧ (pcAt 0xFFFF).schedule = [] ∧ 0xFFF ≤ (pcAt 0xFFFF).pc.toNat) := by decide

/-- UnrecognizedWordIsReported. -/
theorem witness_unrecognized : ∃ (s : State) (w : Word), s.mode = .running ∧ s.schedule = [] ∧ s.pc.toNat + 1 < 0x1000 ∧
    decode (wordOfBytes (s.readByte s.pc.toNat) (s.readByte (s.pc.toNat + 1))) = .unrecognized w :=
  ⟨withBytes (pcAt 0xFFE) [(0xFFE, 0x51), (0xFFF, 0x21)], 0x5121, by decide⟩

/-- FailingInstructionsDoNothingElse: an instruction that reports and one that does not. -/
theorem witness_failing : (∃ t, exec .ret State.reset = .next t ∧ t.reports = [⟨.stackUnderflow, 0x200⟩]) ∧
    ∃ t, exec .cls State.reset = .next t ∧ t.reports = [] :=
  ⟨⟨_, rfl, rfl⟩, ⟨_, rfl, rfl⟩⟩

/-- StepsStopOnlyWhenTheRunIsOver: each of the three stops is met. -/
theorem witness_stops :
    step { State.reset with mode := .halted .stackOverflow } = .fault (.halted .stackOverflow) ∧
    step { State.reset with mode := .halted .stackOverflow, schedule := [.step] } = .fault (.halted .stackOverflow) ∧
    step { State.reset with schedule := [.stop] } = .fault .hostStopped ∧
    step { State.reset with schedule := [.reset (.replicate 3585 0)] } = .refused (.programTooLong 3585) := by
  have h (program : List Byte) (hl : ¬ program.length ≤ maxProgram) :
      step { State.reset with schedule := [.reset program] } = .refused (.programTooLong program.length) := if_neg hl
  have hl : (List.replicate 3585 (0 : Byte)).length = 3585 := List.length_replicate
  exact ⟨rfl, rfl, rfl, (h _ (by rw [hl]; decide)).trans (by rw [hl])⟩

/-- ReadsSeeTheLastWrite: empty memory, and an event that is neither a step nor a reset. -/
theorem witness_reads : State.reset.Inv ∧ State.reset.mem = [] ∧ Event.tick ≠ .step ∧ (∀ program, Event.tick ≠ .reset program) ∧
    runEvent .tick State.reset = .next State.reset :=
  ⟨reset_inv, rfl, nofun, nofun, rfl⟩

/-- TheNextFetchSeesTheStoredWord, at the last PC. -/
theorem witness_next_fetch : (pcAt 0xFFE).Inv ∧ (pcAt 0xFFE).mode = .running ∧ (pcAt 0xFFE).schedule = [] ∧
    (pcAt 0xFFE).pc.toNat + 1 < 0x1000 :=
  ⟨{ memory := ⟨List.Pairwise.nil, nofun⟩, reserved := nofun, depth := by decide, sound := by decide }, by decide⟩

/-- ReturnPopsTheTop, at depth 1 and 16. -/
theorem witness_return : { State.reset with stack := [0x204] }.stack = [] ++ [0x204] ∧
    { State.reset with stack := List.replicate 15 0x202 ++ [0x204] }.stack = List.replicate 15 0x202 ++ [0x204] :=
  ⟨rfl, rfl⟩

/-- CallPushesTheReturnAddress and StackErrorsAreReported: the last depth with room, the full and the empty stack. -/
theorem witness_depths : { State.reset with stack := .replicate 15 0x202 }.stack.length < 16 ∧
    { State.reset with stack := .replicate 16 0x202 }.stack.length = 16 ∧ State.reset.stack = [] := by decide

/-- NestedCallsReturnToTheCaller: sixteen calls from the empty stack, one call at depth 15. -/
theorem witness_nested : List.replicate 16 (0x300 : BitVec 12) ≠ [] ∧
    State.reset.stack.length + (List.replicate 16 (0x300 : BitVec 12)).length ≤ 16 ∧
    { State.reset with stack := .replicate 15 0x202 }.stack.length + [(0x300 : BitVec 12)].length ≤ 16 := by decide

/-- LoadImmediateWritesItsRegister and AddImmediateWrapsWithoutFlag: the first and the last word of their classes. -/
theorem witness_immediates : (0x6000 : Word).extractLsb' 12 4 = 0x6 ∧ (0x6FFF : Word).extractLsb' 12 4 = 0x6 ∧
    (0x7000 : Word).extractLsb' 12 4 = 0x7 ∧ (0x7FFF : Word).extractLsb' 12 4 = 0x7 := by decide

/-- ShiftsMoveOneBitIntoTheFlag, under either value of the quirk. -/
theorem witness_shifts :
    5 = (if (withRegs [(2, 5)]).config.quirks.legacyShift = true then ((withRegs [(2, 5)]).reg 2).toNat
      else ((withRegs [(2, 5)]).reg 1).toNat) ∧
    0 = (if (withQuirks (withRegs [(2, 5)]) false true false).config.quirks.legacyShift = true
      then ((withQuirks (withRegs [(2, 5)]) false true false).reg 2).toNat
      else ((withQuirks (withRegs [(2, 5)]) false true false).reg 1).toNat) := by decide

/-- The machine after reset with `I` at `a`. -/
def indexAt (a : Word) : State := { State.reset with i := a }

theorem indexAt_inv (a : Word) : (indexAt a).Inv :=
  { memory := ⟨List.Pairwise.nil, nofun⟩, reserved := nofun, depth := Nat.zero_le _, sound := rfl }

/-- TheIndexedGlyphIsIntact: the invariant, and the first and the last of the five bytes. -/
theorem witness_glyph : State.reset.Inv ∧ 0 < 5 ∧ 4 < 5 := ⟨reset_inv, by decide⟩

/-- DecimalDigitsAreStored, at both ends of program memory. -/
theorem witness_decimal :
    ((indexAt 0x200).Inv ∧ 0x200 ≤ (indexAt 0x200).i.toNat ∧ (indexAt 0x200).i.toNat + 2 < 0x1000) ∧
    (indexAt 0xFFD).Inv ∧ 0x200 ≤ (indexAt 0xFFD).i.toNat ∧ (indexAt 0xFFD).i.toNat + 2 < 0x1000 :=
  ⟨⟨indexAt_inv _, by decide⟩, indexAt_inv _, by decide⟩

/-- BlockStoreWritesTheRegisters and BlockLoadReadsTheRegisters, at both ends, with one and with sixteen registers. -/
theorem witness_blocks : ((indexAt 0x200).Inv ∧ 0x200 ≤ (indexAt 0x200).i.toNat ∧
      (indexAt 0x200).i.toNat + (0 : RegIdx).val < 0x1000) ∧
    (indexAt 0xFF0).Inv ∧ 0x200 ≤ (indexAt 0xFF0).i.toNat ∧ (indexAt 0xFF0).i.toNat + (15 : RegIdx).val < 0x1000 :=
  ⟨⟨indexAt_inv _, by decide⟩, indexAt_inv _, by decide⟩

/-- AccessErrorsNameTheFirstAddress: each of the four clauses, below program memory and above it. -/
theorem witness_access_errors :
    FirstOffending (fun b => 0x200 ≤ b ∧ b < 0x1000) (indexAt 0x1FF).i.toNat 3 0x1FF ∧
    FirstOffending (fun b => 0x200 ≤ b ∧ b < 0x1000) (indexAt 0xFFE).i.toNat 3 0x1000 ∧
    FirstOffending (fun b => 0x200 ≤ b ∧ b < 0x1000) (indexAt 0x1FF).i.toNat ((0 : RegIdx).val + 1) 0x1FF ∧
    FirstOffending (fun b => 0x200 ≤ b ∧ b < 0x1000) (indexAt 0xFF1).i.toNat ((15 : RegIdx).val + 1) 0x1000 ∧
    FirstOffending (fun b => b < 0x1000) (indexAt 0xFFF).i.toNat ((1 : RegIdx).val + 1) 0x1000 ∧
    FirstOffending (fun b => b < 0x1000) (indexAt 0xFFE).i.toNat (3 : Fin 16).val 0x1000 := by
  simp only [FirstOffending, indexAt]
  refine ⟨⟨by decide, by decide, by decide, ?_⟩, ⟨by decide, by decide, by decide, ?_⟩, ⟨by decide, by decide, by decide, ?_⟩,
    ⟨by decide, by decide, by decide, ?_⟩, ⟨by decide, by decide, by decide, ?_⟩, by decide, by decide, by decide, ?_⟩ <;> intro b h1 h2 <;> simp at h1 h2 ⊢ <;> omega

/-- The machine after reset with `I` at glyph 0 of the font. -/
def atGlyph : State := indexAt 0x050

/-- DrawFlipsTheCoveredPixels: the last index that fits fifteen rows, and height 0 at an index outside memory. -/
theorem witness_draw_heights : (∀ r, r < (15 : Fin 16).val → (indexAt 0xFF1).i.toNat + r < 0x1000) ∧
    (∀ r, r < (0 : Fin 16).val → (indexAt 0x1234).i.toNat + r < 0x1000) := by decide

/-- DrawFlipsTheCoveredPixels: a covered pixel and an uncovered one. -/
theorem witness_draw : (∀ r, r < (5 : Fin 16).val → atGlyph.i.toNat + r < 0x1000) ∧
    SpriteCovers atGlyph 0 1 5 0 0 ∧ ¬ SpriteCovers atGlyph 0 1 5 63 31 := by
  refine ⟨by decide, ⟨0, 0, by decide⟩, ?_⟩
  rintro ⟨r, c, -, hc, hx, -⟩
  have : (atGlyph.reg 0).toNat = 0 := rfl
  simp [this] at hx
  omega

/-- DrawFlipsTheCoveredPixels: a set pixel is covered, and none is. -/
theorem witness_draw_flags :
    (∃ px py, SpriteCovers { atGlyph with fb := Framebuffer.toggle Framebuffer.clear 0 0 } 0 1 5 px py ∧
      Framebuffer.pixel { atGlyph with fb := Framebuffer.toggle Framebuffer.clear 0 0 }.fb px py = true) ∧
    (∀ px py, SpriteCovers { atGlyph with fb := Framebuffer.clear } 0 1 5 px py →
      Framebuffer.pixel { atGlyph with fb := Framebuffer.clear }.fb px py = false) :=
  ⟨⟨0, 0, ⟨0, 0, by decide⟩, by decide⟩, fun px py _ => Framebuffer.pixel_clear px py⟩

/-- DrawingTwiceRestoresThePixels: glyph 0 at the origin, drawn again from the very next state; every pixel was clear. -/
theorem witness_draw_twice : ∃ t, (∀ r, r < (5 : Fin 16).val → atGlyph.i.toNat + r < 0x1000) ∧
    exec (.drw 0 1 5) atGlyph = .next t ∧ t.fb = t.fb ∧ t.i = atGlyph.i ∧
    (∀ r, r < (5 : Fin 16).val → t.readByte (atGlyph.i.toNat + r) = atGlyph.readByte (atGlyph.i.toNat + r)) ∧
    t.reg 0 = atGlyph.reg 0 ∧ t.reg 1 = atGlyph.reg 1 ∧
    (∀ px py, SpriteCovers atGlyph 0 1 5 px py → Framebuffer.pixel atGlyph.fb px py = false) :=
  ⟨_, by decide, rfl, rfl, rfl, fun _ _ => rfl, rfl, rfl, fun px py _ => Framebuffer.pixel_clear px py⟩

/-- DrawingTwiceRestoresThePixels: the first draw overwrites its coordinate in `VF`, and the second takes it from `V2`. -/
theorem witness_draw_twice_flag : ∃ s t : State, s.reg 15 = 5 ∧ (∀ r, r < (1 : Fin 16).val → s.i.toNat + r < 0x1000) ∧
    exec (.drw 15 0 1) s = .next t ∧ t.i = s.i ∧
    (∀ r, r < (1 : Fin 16).val → t.readByte (s.i.toNat + r) = s.readByte (s.i.toNat + r)) ∧
    t.reg 15 ≠ s.reg 15 ∧ t.reg 2 = s.reg 15 ∧ t.reg 0 = s.reg 0 :=
  ⟨{ withRegs [(15, 5), (2, 5)] with i := 0x050 }, _, by decide, by decide, rfl, rfl, fun _ _ => rfl, by decide, by decide,
    by decide⟩

/-- DrawingTwiceRestoresThePixels: height 0 at an index outside memory. -/
theorem witness_draw_twice_empty : ∃ t, (∀ r, r < (0 : Fin 16).val → (indexAt 0x1234).i.toNat + r < 0x1000) ∧
    exec (.drw 0 1 0) (indexAt 0x1234) = .next t ∧ t.i = (indexAt 0x1234).i ∧
    t.reg 0 = (indexAt 0x1234).reg 0 ∧ t.reg 1 = (indexAt 0x1234).reg 1 :=
  ⟨_, by decide, rfl, rfl, rfl, rfl⟩

/-- The machine after reset waiting for a key that goes to `V3`. -/
def waiting : State := { State.reset with mode := .awaitingKey 3 }

/-- KeyUpdateCompletesTheWait: the lowest of two edges; a key held over the whole wait; a machine that does not wait. -/
theorem witness_key_update :
    (waiting.mode = .awaitingKey 3 ∧ waiting.keys[(4 : KeyIdx)] = false ∧ (keysDown [9, 4])[(4 : KeyIdx)] = true ∧
      ∀ j : KeyIdx, j < 4 → waiting.keys[j] = true ∨ (keysDown [9, 4])[j] = false) ∧
    (∀ j : KeyIdx, { waiting with keys := keysDown [7] }.keys[j] = true ∨ (keysDown [7])[j] = false) ∧
    (∀ x, State.reset.mode ≠ .awaitingKey x) :=
  ⟨by decide, by decide, nofun⟩

/-- The machine after reset, halted. -/
def halted : State := { State.reset with mode := .halted .stackUnderflow, dt := 1 }

/-- TickCountsBothTimersDown: a running and a waiting machine. -/
theorem witness_tick : (∀ e, State.reset.mode ≠ .halted e) ∧ ∀ e, waiting.mode ≠ .halted e := ⟨nofun, nofun⟩

/-- ResetReinitialisesTheMachine: the empty program and the longest; the first and the last font byte. -/
theorem witness_reset : ([] : List Byte).length ≤ 3584 ∧ (List.replicate 3584 (0x12 : Byte)).length ≤ 3584 ∧ 0 < 80 ∧
    79 < 80 := by
  rw [List.length_replicate]
  decide

/-- ResetReinitialisesTheMachine: an address of each kind, for a program of two bytes. -/
theorem witness_reset_addresses : (0x200 ≤ 0x201 ∧ 0x201 < 0x200 + [(0x12 : Byte), 0x00].length) ∧
    ((0x0A0 < State.reset.config.fontBase.val ∨ State.reset.config.fontBase.val + 80 ≤ 0x0A0) ∧
      (0x0A0 < 0x200 ∨ 0x200 + [(0x12 : Byte), 0x00].length ≤ 0x0A0)) ∧
    ((0x202 < State.reset.config.fontBase.val ∨ State.reset.config.fontBase.val + 80 ≤ 0x202) ∧
      (0x202 < 0x200 ∨ 0x200 + [(0x12 : Byte), 0x00].length ≤ 0x202)) := by decide

/-- ProgramsThatDoNotFitAreRefused (RS3, RS4). -/
theorem witness_program_sizes : 3584 < (List.replicate 3585 (0x12 : Byte)).length ∧
    (List.replicate 3584 (0x12 : Byte)).length = 3584 := by
  rw [List.length_replicate]
  exact ⟨by decide, List.length_replicate⟩

/-- EveryEventKeepsTheInvariant and TheReservedRegionNeverChanges: a step from the machine after reset. -/
theorem witness_invariant : ∃ t, State.reset.Inv ∧ step State.reset = .next t := ⟨_, reset_inv, rfl⟩

/-- OnlyTheListedInstructionsWriteVF: an instruction that does. -/
theorem witness_flag : ∃ t, exec (.ldImm 15 1) State.reset = .next t ∧ t.reg 15 ≠ State.reset.reg 15 := ⟨_, rfl, by decide⟩

/-- EachPartHasItsWriters: an instruction that writes the index, and one that starts a wait. -/
theorem witness_writers : (∃ t, exec (.ldI 5) State.reset = .next t ∧ t.i ≠ State.reset.i) ∧
    ∃ t, exec (.ldVxK 3) State.reset = .next t ∧ t.mode ≠ State.reset.mode := ⟨⟨_, rfl, by decide⟩, _, rfl, by decide⟩

/-- KeysAndDrawsAreReadByTheirInstructionsAlone: an instruction for each clause. -/
theorem witness_keys_and_draws : (∀ x, Instr.cls ≠ .skp x ∧ Instr.cls ≠ .sknp x) ∧ (∀ x nn, Instr.skp 0 ≠ .rnd x nn) ∧
    Config.randomByte 0 = Config.randomByte State.reset.draws :=
  ⟨fun _ => ⟨nofun, nofun⟩, nofun, rfl⟩

/-- HaltedIsLeftByResetAlone: a key update and a present event reach a halted machine. -/
theorem witness_halted : ∃ t, halted.mode = .halted .stackUnderflow ∧ runEvent (.keyUpdate (keysDown [1])) halted = .next t ∧
    ∀ program, Event.keyUpdate (keysDown [1]) ≠ .reset program := ⟨_, rfl, rfl, nofun⟩

/-- TheWaitIsLeftByAnEdgeOrReset: a step and an edge. -/
theorem witness_wait : waiting.mode = .awaitingKey 3 ∧ runEvent .step waiting = .next waiting ∧
    ∃ t, runEvent (.keyUpdate (keysDown [1])) waiting = .next t ∧ t.mode = .running := ⟨rfl, rfl, _, rfl, rfl⟩

/-- Sixty ticks, one at each sixtieth of a second (the units of time are sixtieths). -/
def secondOfTicks : List (Nat × Event) := (List.range 60).map (fun n => (n, .tick))

/-- Only ticks leave `DT` to the ticks, in a machine that is not halted. -/
theorem delay_left_to_ticks (events : List Event) (h : ∀ e ∈ events, e = .tick) (s : State) (hm : ∀ er, s.mode ≠ .halted er) :
    DelayLeftToTicks events s := by
  induction events generalizing s with
  | nil => trivial
  | cons e es ih =>
    obtain rfl := h e (by simp)
    refine ⟨nofun, nofun, hm, nofun, fun t ht => ih (fun e he => h e (by simp [he])) t ?_⟩
    have hs : t = s.tick := by simpa [runEvent, eq_comm] using ht
    subst hs
    unfold State.tick
    split
    · exact hm
    all_goals exact hm

/-- How many of the ticks at `0 .. n-1` lie between two times. -/
theorem ticks_between (n a b : Nat) : eventsBetween (fun e => decide (e = .tick)) ((List.range n).map (fun n => (n, Event.tick))) a b =
    min n b - min n a := by
  induction n with
  | zero => simp [eventsBetween]
  | succ n ih =>
    simp only [eventsBetween, List.range_succ, List.map_append, List.countP_append] at ih ⊢
    rw [ih]
    by_cases h1 : a ≤ n <;> by_cases h2 : n < b <;> simp [h1, h2] <;> omega

/-- SixtyTicksASecondWhateverTheRate: its premises together. -/
theorem witness_sixty_ticks : DelayLeftToTicks (secondOfTicks.map Prod.snd) { State.reset with dt := 60 } ∧ 0 < 60 ∧
    (∀ te ∈ secondOfTicks, te.1 < 60) ∧ TickCadence 60 60 secondOfTicks ∧ ({ State.reset with dt := 60 } : State).dt.toNat = 60 := by
  refine ⟨delay_left_to_ticks _ (by simp [secondOfTicks]) _ nofun, by decide, by simp [secondOfTicks], ?_, rfl⟩
  intro a d h
  left
  unfold secondOfTicks
  rw [ticks_between]
  omega

/-- SixtyTicksASecondWhateverTheRate: a step may stand between two ticks. -/
theorem witness_step_between_ticks : DelayLeftToTicks [.tick, .step, .tick] State.reset := by
  refine ⟨nofun, nofun, nofun, nofun, ?_⟩
  rintro _ ⟨⟩
  refine ⟨nofun, nofun, nofun, ?_, ?_⟩
  · rintro - - w x hf
    have : w = 0x0000 := by simpa [State.fetch] using (Except.ok.inj (hf.symm.trans (by rfl)))
    subst this
    exact nofun
  rintro _ ⟨⟩
  exact ⟨nofun, nofun, nofun, nofun, fun _ _ => trivial⟩

end Sys2Proof.Tests
end

section
/-! PROOFS. Register loads and arithmetic with an immediate (R141, R142): the words of a whole class, the instructions that
write one general register, and the statements that combine the two. -/

namespace Sys2Proof

/-! ### Words of a class whose row fixes no other bit -/

/-- A row's words share its class nibble: every mask of the table covers `w[15:12]`. -/
theorem class_eq_of_matches {r : Row} {w : Word} (hr : r ∈ rows) (h : r.matches w = true) :
    w.extractLsb' 12 4 = r.pattern.extractLsb' 12 4 := by
  have hmask : ∀ r ∈ rows, r.mask.extractLsb' 12 4 = 0xF#4 := by decide
  have hp : w &&& r.mask = r.pattern := by simpa [Row.matches] using h
  rw [← hp, BitVec.extractLsb'_and, hmask r hr]
  exact BitVec.and_allOnes.symm

/-- Under the mask of the class nibble a word is its class and nothing else. -/
theorem and_classMask (w : Word) : w &&& 0xF000#16 = placeField (w.extractLsb' 12 4) 12 := by
  refine BitVec.eq_of_getLsbD_eq fun i hi => ?_
  interval_cases i <;> simp [placeField]

/-- The first row that matches a word is the row it is decoded by (R75). -/
theorem decode_of_first_row {w : Word} {r : Row} (k : Nat) (hk : k < rows.length) (hr : rows[k] = r)
    (hm : r.matches w = true) (hbefore : ∀ j (hj : j < k), rows[j].matches w = false) :
    decode w = .instr (r.build w) := by
  have hfind : rows.find? (fun r => r.matches w) = some r :=
    List.find?_eq_some_iff_getElem.mpr ⟨hm, k, hk, hr, fun j hj => by simp [hbefore j hj]⟩
  simp [decode, hfind]

/-- Where the first row of a class fixes the class nibble alone, it decodes every word of the class. -/
theorem decode_of_class {w : Word} {c : BitVec 4} (k : Nat) (hk : k < rows.length) (build : Word → Instr)
    (hr : rows[k] = ⟨0xF000, placeField c 12, build⟩)
    (hbefore : ∀ r ∈ rows.take k, r.pattern.extractLsb' 12 4 ≠ c) (hw : w.extractLsb' 12 4 = c) :
    decode w = .instr (build w) := by
  refine decode_of_first_row k hk hr ?_ fun j hj => ?_
  · simp [Row.matches, and_classMask, hw]
  · refine Bool.eq_false_iff.mpr fun hm => ?_
    have hclass := class_eq_of_matches (List.getElem_mem _) hm
    exact hbefore _ (List.mem_take_iff_getElem.mpr ⟨j, by omega, rfl⟩) (hclass.symm.trans hw)

/-- The words of class 6 (R141). -/
theorem decode_class6 (w : Word) (h : w.extractLsb' 12 4 = 0x6) : decode w = .instr (.ldImm (fieldX w) (fieldNN w)) :=
  decode_of_class 8 (by decide) _ rfl (by decide) h

/-- The words of class 7 (R142). -/
theorem decode_class7 (w : Word) (h : w.extractLsb' 12 4 = 0x7) : decode w = .instr (.addImm (fieldX w) (fieldNN w)) :=
  decode_of_class 9 (by decide) _ rfl (by decide) h

end Sys2Proof

namespace Sys2Proof.Machine

/-! ### Instructions that write one general register -/

/-- An instruction whose next state differs in `Vx` and the PC alone writes the registers as `regs` says when `regs` holds of
the new value at `x` and of the old value at every other register. -/
theorem writesRegs_of_exec_set {i : Instr} {s : State} {x : RegIdx} {b : Byte} {regs : RegIdx → Byte → Prop}
    (h : exec i s = .next { s with v := s.v.set x b, pc := s.pc + 2 })
    (hregs : ∀ q, regs q (if q = x then b else s.reg q)) : WritesRegs i s regs := by
  refine ⟨_, h, fun q => ?_, rfl, ?_⟩
  · exact State.reg_setReg s x q b ▸ hregs q
  · exact ⟨rfl, rfl, ⟨rfl, rfl, rfl⟩, ⟨rfl, rfl⟩, fun _ => rfl, rfl, rfl, rfl, rfl, rfl, rfl⟩

/-- Settles O20: the row of class 6 decides its words, and the one register write leaves every other part as it was. -/
theorem loadImmediateWritesItsRegister : Obligations.LoadImmediateWritesItsRegister :=
  ⟨decode_class6, fun x nn s => writesRegs_of_exec_set (exec_ldImm x nn s) fun _ => rfl⟩

/-- Settles O21: as O20 by the row of class 7, with the byte sum read as a number modulo 256. -/
theorem addImmediateWrapsWithoutFlag : Obligations.AddImmediateWrapsWithoutFlag := by
  refine ⟨decode_class7, fun x nn s => writesRegs_of_exec_set (exec_addImm x nn s) fun q => ?_⟩
  split
  · exact BitVec.toNat_add _ _
  · rfl

end Sys2Proof.Machine
end

section
/-! PROOFS. The tick of the timer unit (R255): the notification of a sound timer write (R258) in the timer's own terms, and the
statement that uses it. -/

namespace Sys2Proof.Machine

/-- A write of the sound timer notifies exactly when one of the old and the new value is zero and the other is not (R258). -/
theorem State.setSound_soundNotes_eq_ite_zero (s : State) (b : Byte) :
    (s.setSound b).soundNotes = if (s.st = 0 ↔ b = 0) then s.soundNotes else decide (b ≠ 0) :: s.soundNotes := by
  have hlevel (c : Byte) : (c != 0) = decide (c ≠ 0) := decide_not.symm
  have hchange : (s.soundOn != decide (b ≠ 0)) = true ↔ ¬(s.st = 0 ↔ b = 0) := by
    rw [State.soundOn, hlevel, bne_iff_ne, ne_eq, decide_eq_decide]
    exact not_congr not_iff_not
  simp only [State.setSound_soundNotes, hlevel, hchange, ite_not]

/-- Settles O40: outside mode Halted a tick is one write of each timer, so the clamp is that of `timerAfterTick`, the notification
that of the sound timer's write, and the frame that of the two writes. -/
theorem tickCountsBothTimersDown : Obligations.TickCountsBothTimersDown := by
  intro s hmode
  refine ⟨(s.setDelay (timerAfterTick s.dt)).setSound (timerAfterTick s.st), ?_, ?_, ?_, ?_, rfl⟩
  · exact congrArg Host.Outcome.next (s.tick_of_not_halted hmode)
  · exact timerAfterTick_toNat s.dt
  · exact timerAfterTick_toNat s.st
  · exact State.setSound_soundNotes_eq_ite_zero _ _

end Sys2Proof.Machine
end

section
/-! PROOFS. The decoder and the encoder (R75 to R77): when a row decides a word, the two round trips, and the words no row has. -/

namespace Sys2Proof

/-! ### The row a word is decoded by -/

/-- Every instruction's word lies in the instruction's own row (the facts of `Laws.EncodingRow`, put together). -/
theorem encode_in_row (i : Instr) : Laws.EncodingRow.Statement i := by
  cases i with
  | cls => exact Laws.EncodingRow.cls
  | ret => exact Laws.EncodingRow.ret
  | sys nnn => exact Laws.EncodingRow.sys nnn
  | jp nnn => exact Laws.EncodingRow.jp nnn
  | call nnn => exact Laws.EncodingRow.call nnn
  | seImm x nn => exact Laws.EncodingRow.seImm x nn
  | sneImm x nn => exact Laws.EncodingRow.sneImm x nn
  | seReg x y => exact Laws.EncodingRow.seReg x y
  | ldImm x nn => exact Laws.EncodingRow.ldImm x nn
  | addImm x nn => exact Laws.EncodingRow.addImm x nn
  | ldReg x y => exact Laws.EncodingRow.ldReg x y
  | or x y => exact Laws.EncodingRow.or x y
  | and x y => exact Laws.EncodingRow.and x y
  | xor x y => exact Laws.EncodingRow.xor x y
  | addReg x y => exact Laws.EncodingRow.addReg x y
  | sub x y => exact Laws.EncodingRow.sub x y
  | shr x y => exact Laws.EncodingRow.shr x y
  | subn x y => exact Laws.EncodingRow.subn x y
  | shl x y => exact Laws.EncodingRow.shl x y
  | sneReg x y => exact Laws.EncodingRow.sneReg x y
  | ldI nnn => exact Laws.EncodingRow.ldI nnn
  | jpV0 nnn => exact Laws.EncodingRow.jpV0 nnn
  | rnd x nn => exact Laws.EncodingRow.rnd x nn
  | drw x y n => exact Laws.EncodingRow.drw x y n
  | skp x => exact Laws.EncodingRow.skp x
  | sknp x => exact Laws.EncodingRow.sknp x
  | ldVxDt x => exact Laws.EncodingRow.ldVxDt x
  | ldVxK x => exact Laws.EncodingRow.ldVxK x
  | ldDtVx x => exact Laws.EncodingRow.ldDtVx x
  | ldStVx x => exact Laws.EncodingRow.ldStVx x
  | addI x => exact Laws.EncodingRow.addI x
  | ldF x => exact Laws.EncodingRow.ldF x
  | ldB x => exact Laws.EncodingRow.ldB x
  | ldMemVx x => exact Laws.EncodingRow.ldMemVx x
  | ldVxMem x => exact Laws.EncodingRow.ldVxMem x

@[simp] theorem Row.matches_iff (r : Row) (w : Word) : r.matches w = true ↔ w &&& r.mask = r.pattern := by
  simp [Row.matches]

/-- The rows that share a word: an exact word of class 0 (row 0 or 1) and the `SYS` row (row 2), and no others. -/
theorem rows_overlap : ∀ k (hk : k < rows.length) j (hj : j < k),
    rows[j].pattern &&& rows[k].mask = rows[k].pattern &&& rows[j].mask →
      k = 2 ∧ rows[j].mask = 0xFFFF#16 ∧ (rows[j].pattern = 0x00E0#16 ∨ rows[j].pattern = 0x00EE#16) := by
  decide

/-- A row that matches a word and builds a well-formed instruction is the row the word is decoded by. -/
theorem decode_of_matches {r : Row} {w : Word} (hr : r ∈ rows) (hm : r.matches w = true)
    (hwf : (r.build w).wellFormed = true) : decode w = .instr (r.build w) := by
  obtain ⟨k, hk, rfl⟩ := List.mem_iff_getElem.mp hr
  refine decode_of_first_row k hk rfl hm fun j hj => Bool.eq_false_iff.mpr fun hmj => ?_
  rw [Row.matches_iff] at hm hmj
  have hshared : rows[j].pattern &&& rows[k].mask = rows[k].pattern &&& rows[j].mask := by
    rw [← hm, ← hmj, BitVec.and_assoc, BitVec.and_assoc, BitVec.and_comm rows[j].mask]
  obtain ⟨rfl, hmask, hpattern⟩ := rows_overlap k hk j hj hshared
  have hw : w = rows[j].pattern := by rw [← hmj, hmask]; exact BitVec.and_allOnes.symm
  rcases hpattern with hp | hp <;> rw [hw, hp] at hwf <;> cases hwf

/-- Settles O2: the word of an instruction lies in the instruction's own row, and a well-formed one is decoded by that row. -/
theorem decodeOfEncodeIsTheInstruction : Obligations.DecodeOfEncodeIsTheInstruction := by
  intro i hwf
  obtain ⟨r, hr, hm, hb⟩ := encode_in_row i
  have hdecode := decode_of_matches hr hm (by rw [hb]; exact hwf)
  rwa [hb] at hdecode

/-- Settles O1: eleven closed words, looked up in the table. -/
theorem wordsOfTheSpecDecode : Obligations.WordsOfTheSpecDecode := by
  unfold Obligations.WordsOfTheSpecDecode
  decide

/-! ### A word from its fields, format by format -/

theorem encodeA_fields (w : Word) : encodeA (w.extractLsb' 12 4) (fieldNNN w) = w := by
  refine BitVec.eq_of_getLsbD_eq fun i hi => ?_
  interval_cases i <;> simp [encodeA, placeField, fieldNNN]

/-- The register field `X` as the four bits it is. -/
theorem ofFin_fieldX (w : Word) : BitVec.ofFin (w := 4) (fieldX w) = w.extractLsb' 8 4 := rfl

/-- The register field `Y` as the four bits it is. -/
theorem ofFin_fieldY (w : Word) : BitVec.ofFin (w := 4) (fieldY w) = w.extractLsb' 4 4 := rfl

theorem encodeXNN_fields (w : Word) : encodeXNN (w.extractLsb' 12 4) (fieldX w) (fieldNN w) = w := by
  refine BitVec.eq_of_getLsbD_eq fun i hi => ?_
  interval_cases i <;> simp [encodeXNN, ofFin_fieldX, placeField, fieldNN]

theorem encodeXYN_fields (w : Word) :
    encodeXYN (w.extractLsb' 12 4) (fieldX w) (fieldY w) (w.extractLsb' 0 4) = w := by
  refine BitVec.eq_of_getLsbD_eq fun i hi => ?_
  interval_cases i <;> simp [encodeXYN, ofFin_fieldX, ofFin_fieldY, placeField]

/-! ### What a row's mask says about a word's fields -/

/-- Under the mask of class and low nibble a word is the two. -/
theorem and_subMask (w : Word) :
    w &&& 0xF00F#16 = placeField (w.extractLsb' 12 4) 12 ||| placeField (w.extractLsb' 0 4) 0 := by
  refine BitVec.eq_of_getLsbD_eq fun i hi => ?_
  interval_cases i <;> simp [placeField]

/-- Under the mask of class nibble and low byte a word is the two. -/
theorem and_byteMask (w : Word) :
    w &&& 0xF0FF#16 = placeField (w.extractLsb' 12 4) 12 ||| placeField (w.extractLsb' 0 8) 0 := by
  refine BitVec.eq_of_getLsbD_eq fun i hi => ?_
  interval_cases i <;> simp [placeField]

/-- A class nibble and a low field that does not reach it can be told from their word. -/
theorem placeField_or_eq_iff {k : Nat} (hk : k ≤ 8) (c d : BitVec 4) (n m : BitVec k) :
    placeField c 12 ||| placeField n 0 = placeField d 12 ||| placeField m 0 ↔ c = d ∧ n = m := by
  have hclass (c : BitVec 4) (n : BitVec k) (i : Nat) (hi : i < 4) :
      (placeField c 12 ||| placeField n 0).getLsbD (12 + i) = c.getLsbD i := by
    have hn : n.getLsbD (12 + i) = false := BitVec.getLsbD_of_ge _ _ (by omega)
    have hword : 12 + i < 16 := by omega
    simp [placeField, hn, hword]
  have hlow (c : BitVec 4) (n : BitVec k) (i : Nat) (hi : i < k) :
      (placeField c 12 ||| placeField n 0).getLsbD i = n.getLsbD i := by
    have hbelow : i < 12 := by omega
    have hword : i < 16 := by omega
    simp [placeField, hbelow, hword]
  constructor
  · refine fun h => ⟨BitVec.eq_of_getLsbD_eq fun i hi => ?_, BitVec.eq_of_getLsbD_eq fun i hi => ?_⟩
    · rw [← hclass c n i hi, h, hclass d m i hi]
    · rw [← hlow c n i hi, h, hlow d m i hi]
  · rintro ⟨rfl, rfl⟩
    rfl

/-- A row that fixes the class nibble. -/
theorem and_classMask_iff (w : Word) (c : BitVec 4) :
    w &&& 0xF000#16 = placeField c 12 ↔ w.extractLsb' 12 4 = c := by
  have hzero : placeField 0#0 0 = 0#16 := rfl
  rw [and_classMask]
  simpa [hzero] using placeField_or_eq_iff (Nat.zero_le 8) (w.extractLsb' 12 4) c 0#0 0#0

/-- A row that fixes the class nibble and the low nibble. -/
theorem and_subMask_iff (w : Word) (c n : BitVec 4) :
    w &&& 0xF00F#16 = placeField c 12 ||| placeField n 0 ↔ w.extractLsb' 12 4 = c ∧ w.extractLsb' 0 4 = n := by
  rw [and_subMask, placeField_or_eq_iff (by decide)]

/-- A row that fixes the class nibble and the low byte. -/
theorem and_byteMask_iff (w : Word) (c : BitVec 4) (nn : Byte) :
    w &&& 0xF0FF#16 = placeField c 12 ||| placeField nn 0 ↔ w.extractLsb' 12 4 = c ∧ w.extractLsb' 0 8 = nn := by
  rw [and_byteMask, placeField_or_eq_iff (by decide)]

/-! ### The words of a row come back from their instructions -/

/-- Each word of the row is the word of the instruction the row builds from it. -/
def Row.RoundTrips (r : Row) : Prop := ∀ w : Word, w &&& r.mask = r.pattern → encode (r.build w) = w

section
variable (c n : BitVec 4) (nn : Byte) (build : Word → Instr)

theorem Row.roundTrips_word (w : Word) (i : Instr) (h : encode i = w) : Row.RoundTrips ⟨0xFFFF, w, fun _ => i⟩ :=
  fun _ hw => h.trans (hw.symm.trans BitVec.and_allOnes)

theorem Row.roundTrips_address (h : ∀ w, encode (build w) = encodeA c (fieldNNN w)) :
    Row.RoundTrips ⟨0xF000, placeField c 12, build⟩ := fun w hw => by
  rw [h, ← (and_classMask_iff w c).mp hw, encodeA_fields]

theorem Row.roundTrips_immediate (h : ∀ w, encode (build w) = encodeXNN c (fieldX w) (fieldNN w)) :
    Row.RoundTrips ⟨0xF000, placeField c 12, build⟩ := fun w hw => by
  rw [h, ← (and_classMask_iff w c).mp hw, encodeXNN_fields]

theorem Row.roundTrips_height
    (h : ∀ w, encode (build w) = encodeXYN c (fieldX w) (fieldY w) (w.extractLsb' 0 4)) :
    Row.RoundTrips ⟨0xF000, placeField c 12, build⟩ := fun w hw => by
  rw [h, ← (and_classMask_iff w c).mp hw, encodeXYN_fields]

theorem Row.roundTrips_sub (h : ∀ w, encode (build w) = encodeXYN c (fieldX w) (fieldY w) n) :
    Row.RoundTrips ⟨0xF00F, placeField c 12 ||| placeField n 0, build⟩ := fun w hw => by
  obtain ⟨hc, hn⟩ := (and_subMask_iff w c n).mp hw
  rw [h, ← hc, ← hn, encodeXYN_fields]

theorem Row.roundTrips_byte (h : ∀ w, encode (build w) = encodeXNN c (fieldX w) nn) :
    Row.RoundTrips ⟨0xF0FF, placeField c 12 ||| placeField nn 0, build⟩ := fun w hw => by
  obtain ⟨hc, hn⟩ := (and_byteMask_iff w c nn).mp hw
  rw [h, ← hc, ← hn]
  exact encodeXNN_fields w

end

theorem rowsLow_roundTrip : ∀ r ∈ rowsLow, r.RoundTrips := by
  simp only [rowsLow, List.forall_mem_cons]
  exact ⟨Row.roundTrips_word _ _ rfl, Row.roundTrips_word _ _ rfl, Row.roundTrips_address 0x0 _ fun _ => rfl,
    Row.roundTrips_address 0x1 _ fun _ => rfl, Row.roundTrips_address 0x2 _ fun _ => rfl,
    Row.roundTrips_immediate 0x3 _ fun _ => rfl, Row.roundTrips_immediate 0x4 _ fun _ => rfl,
    Row.roundTrips_sub 0x5 0x0 _ fun _ => rfl, Row.roundTrips_immediate 0x6 _ fun _ => rfl,
    Row.roundTrips_immediate 0x7 _ fun _ => rfl, nofun⟩

theorem rowsAlu_roundTrip : ∀ r ∈ rowsAlu, r.RoundTrips := by
  simp only [rowsAlu, List.forall_mem_cons]
  exact ⟨Row.roundTrips_sub 0x8 0x0 _ fun _ => rfl, Row.roundTrips_sub 0x8 0x1 _ fun _ => rfl,
    Row.roundTrips_sub 0x8 0x2 _ fun _ => rfl, Row.roundTrips_sub 0x8 0x3 _ fun _ => rfl,
    Row.roundTrips_sub 0x8 0x4 _ fun _ => rfl, Row.roundTrips_sub 0x8 0x5 _ fun _ => rfl,
    Row.roundTrips_sub 0x8 0x6 _ fun _ => rfl, Row.roundTrips_sub 0x8 0x7 _ fun _ => rfl,
    Row.roundTrips_sub 0x8 0xE _ fun _ => rfl, Row.roundTrips_sub 0x9 0x0 _ fun _ => rfl, nofun⟩

theorem rowsHigh_roundTrip : ∀ r ∈ rowsHigh, r.RoundTrips := by
  simp only [rowsHigh, List.forall_mem_cons]
  exact ⟨Row.roundTrips_address 0xA _ fun _ => rfl, Row.roundTrips_address 0xB _ fun _ => rfl,
    Row.roundTrips_immediate 0xC _ fun _ => rfl, Row.roundTrips_height 0xD _ fun _ => rfl,
    Row.roundTrips_byte 0xE 0x9E _ fun _ => rfl, Row.roundTrips_byte 0xE 0xA1 _ fun _ => rfl,
    Row.roundTrips_byte 0xF 0x07 _ fun _ => rfl, Row.roundTrips_byte 0xF 0x0A _ fun _ => rfl,
    Row.roundTrips_byte 0xF 0x15 _ fun _ => rfl, Row.roundTrips_byte 0xF 0x18 _ fun _ => rfl,
    Row.roundTrips_byte 0xF 0x1E _ fun _ => rfl, Row.roundTrips_byte 0xF 0x29 _ fun _ => rfl,
    Row.roundTrips_byte 0xF 0x33 _ fun _ => rfl, Row.roundTrips_byte 0xF 0x55 _ fun _ => rfl,
    Row.roundTrips_byte 0xF 0x65 _ fun _ => rfl, nofun⟩

theorem rows_roundTrip {r : Row} (hr : r ∈ rows) : r.RoundTrips := by
  simp only [rows, List.mem_append] at hr
  rcases hr with (hr | hr) | hr
  · exact rowsLow_roundTrip r hr
  · exact rowsAlu_roundTrip r hr
  · exact rowsHigh_roundTrip r hr

/-- What the decoder can answer: the instruction of a row that matches, or the word itself where no row does. -/
theorem decode_cases (w : Word) :
    (∃ r ∈ rows, r.matches w = true ∧ decode w = .instr (r.build w)) ∨
      (decode w = .unrecognized w ∧ ∀ r ∈ rows, r.matches w = false) := by
  cases hfind : rows.find? (fun r => r.matches w) with
  | some r => exact .inl ⟨r, List.mem_of_find?_eq_some hfind, List.find?_some (p := fun r : Row => r.matches w) hfind,
      by simp [decode, hfind]⟩
  | none => exact .inr ⟨by simp [decode, hfind], by simpa [-Row.matches_iff] using hfind⟩

/-- Settles O3: an instruction comes from a row, whose words come back, and an unrecognized word is its own encoding. -/
theorem encodeOfDecodeIsTheWord : Obligations.EncodeOfDecodeIsTheWord := by
  intro w
  rcases decode_cases w with ⟨r, hr, hm, hd⟩ | ⟨hd, -⟩ <;> rw [hd]
  · exact rows_roundTrip hr w ((Row.matches_iff r w).mp hm)
  · rfl

/-! ### What the decoder never gives, and what it leaves unrecognized -/

/-- The two ill-formed terms: `SYS` of the words of `CLS` and `RET`. -/
theorem Instr.wellFormed_eq_false {i : Instr} (h : i.wellFormed ≠ true) : i = .sys 0x0E0#12 ∨ i = .sys 0x0EE#12 := by
  cases i with
  | sys nnn => simpa only [Instr.wellFormed, Bool.and_eq_true, bne_iff_ne, ne_eq, not_and_or, not_not, Instr.sys.injEq] using h
  | _ => exact absurd rfl h

/-- Settles O5: a decoded `SYS` of `CLS`'s or `RET`'s word would come from that word, which decodes to `CLS` or `RET`. -/
theorem decodedInstructionsAreWellFormed : Obligations.DecodedInstructionsAreWellFormed := by
  intro w i hd
  by_contra hwf
  have hw : encode i = w := by simpa [hd, Descriptor.encode] using encodeOfDecodeIsTheWord w
  rcases Instr.wellFormed_eq_false hwf with rfl | rfl
  · exact absurd (hw ▸ hd) (by decide)
  · exact absurd (hw ▸ hd) (by decide)

/-- A word is unrecognized exactly when it lies in no row (R77). -/
theorem decode_eq_unrecognized_iff (w : Word) :
    decode w = .unrecognized w ↔ ∀ r ∈ rows, r.matches w = false := by
  rcases decode_cases w with ⟨r, hr, hm, hd⟩ | ⟨hd, hno⟩
  · exact ⟨fun h => by simp [hd] at h, fun h => by simp [h r hr] at hm⟩
  · exact ⟨fun _ => hno, fun _ => hd⟩

/-- The classes whose row fixes the class nibble alone. -/
def wholeClasses : List (BitVec 4) := [0x0, 0x1, 0x2, 0x3, 0x4, 0x6, 0x7, 0xA, 0xB, 0xC, 0xD]

/-- Class and low nibble of the rows that fix the two. -/
def subRows : List (BitVec 4 × BitVec 4) :=
  [(0x5, 0x0), (0x8, 0x0), (0x8, 0x1), (0x8, 0x2), (0x8, 0x3), (0x8, 0x4), (0x8, 0x5), (0x8, 0x6), (0x8, 0x7), (0x8, 0xE),
    (0x9, 0x0)]

/-- Class and low byte of the rows that fix the two. -/
def byteRows : List (BitVec 4 × Byte) :=
  [(0xE, 0x9E), (0xE, 0xA1), (0xF, 0x07), (0xF, 0x0A), (0xF, 0x15), (0xF, 0x18), (0xF, 0x1E), (0xF, 0x29), (0xF, 0x33),
    (0xF, 0x55), (0xF, 0x65)]

/-- The masks and patterns of the table, sorted by what they fix of a word. -/
theorem rows_masks : (rows.map fun r => (r.mask, r.pattern)).Perm
    ([(0xFFFF#16, 0x00E0#16), (0xFFFF#16, 0x00EE#16)] ++
      wholeClasses.map (fun c => (0xF000#16, placeField c 12)) ++
      subRows.map (fun p => (0xF00F#16, placeField p.1 12 ||| placeField p.2 0)) ++
      byteRows.map (fun p => (0xF0FF#16, placeField p.1 12 ||| placeField p.2 0))) := by
  decide

/-- A word lies in some row exactly when its class, its class and low nibble, or its class and low byte are a row's. The exact
words of class 0 lie in the `SYS` row too. -/
theorem exists_row_iff (w : Word) : (∃ r ∈ rows, r.matches w = true) ↔
    w.extractLsb' 12 4 ∈ wholeClasses ∨ (w.extractLsb' 12 4, w.extractLsb' 0 4) ∈ subRows ∨
      (w.extractLsb' 12 4, w.extractLsb' 0 8) ∈ byteRows := by
  have hmasks : (∃ r ∈ rows, r.matches w = true) ↔ ∃ mp ∈ rows.map fun r => (r.mask, r.pattern), w &&& mp.1 = mp.2 := by
    simp
  have hexact (p : Word) (hp : p.extractLsb' 12 4 = 0x0#4) (h : w &&& 0xFFFF#16 = p) : w.extractLsb' 12 4 ∈ wholeClasses := by
    rw [show w = p from BitVec.and_allOnes.symm.trans h, hp]
    decide
  simp only [hmasks, rows_masks.mem_iff, List.mem_append, List.mem_map, or_and_right, exists_or]
  constructor
  · rintro (((⟨mp, hmp, h⟩ | ⟨_, ⟨c, hc, rfl⟩, h⟩) | ⟨_, ⟨p, hp, rfl⟩, h⟩) | ⟨_, ⟨p, hp, rfl⟩, h⟩)
    · simp only [List.mem_cons, List.not_mem_nil, or_false] at hmp
      rcases hmp with rfl | rfl <;> exact .inl (hexact _ (by decide) h)
    · exact .inl ((and_classMask_iff w c).mp h ▸ hc)
    · obtain ⟨h1, h2⟩ := (and_subMask_iff w p.1 p.2).mp h
      exact .inr (.inl (by rw [h1, h2]; exact hp))
    · obtain ⟨h1, h2⟩ := (and_byteMask_iff w p.1 p.2).mp h
      exact .inr (.inr (by rw [h1, h2]; exact hp))
  · rintro (h | h | h)
    · exact .inl (.inl (.inr ⟨_, ⟨_, h, rfl⟩, (and_classMask_iff w _).mpr rfl⟩))
    · exact .inl (.inr ⟨_, ⟨_, h, rfl⟩, (and_subMask_iff w _ _).mpr ⟨rfl, rfl⟩⟩)
    · exact .inr ⟨_, ⟨_, h, rfl⟩, (and_byteMask_iff w _ _).mpr ⟨rfl, rfl⟩⟩

/-- The classes that do not decode whole: 5, 8, 9, E and F. -/
theorem not_mem_wholeClasses (c : BitVec 4) :
    c ∉ wholeClasses ↔ c = 0x5#4 ∨ c = 0x8#4 ∨ c = 0x9#4 ∨ c = 0xE#4 ∨ c = 0xF#4 := by
  revert c; decide

/-- The low nibbles no row of class 8 has. -/
theorem not_mem_subRows_class8 (n : BitVec 4) :
    (0x8#4, n) ∉ subRows ↔ n ∈ ([0x8, 0x9, 0xA, 0xB, 0xC, 0xD, 0xF] : List (BitVec 4)) := by
  revert n; decide

/-- Settles O4: a word in no row is in one of the five classes that do not decode whole, and there its low nibble or low byte is
none of the class's rows. -/
theorem unrecognizedWordsAreExactlyTheListed : Obligations.UnrecognizedWordsAreExactlyTheListed := by
  intro w
  have hrows : decode w = .unrecognized w ↔ ¬ ∃ r ∈ rows, r.matches w = true := by
    simp only [decode_eq_unrecognized_iff, not_exists, not_and, Bool.not_eq_true]
  rw [hrows, exists_row_iff, not_or, not_or, not_mem_wholeClasses]
  generalize w.extractLsb' 12 4 = c
  generalize w.extractLsb' 0 4 = n
  generalize w.extractLsb' 0 8 = b
  constructor
  · rintro ⟨rfl | rfl | rfl | rfl | rfl, hn, hb⟩
    · simpa [subRows] using hn
    · simpa using (not_mem_subRows_class8 n).mp hn
    · simpa [subRows] using hn
    · simpa [byteRows] using hb
    · simpa [byteRows] using hb
  · rintro (⟨rfl, h⟩ | ⟨rfl, h⟩ | ⟨rfl, h⟩ | ⟨rfl, h⟩ | ⟨rfl, h⟩)
    · simpa [subRows, byteRows] using h
    · simpa [byteRows] using (not_mem_subRows_class8 n).mpr h
    · simpa [subRows, byteRows] using h
    · simpa [subRows, byteRows] using h
    · simpa [subRows, byteRows] using h

end Sys2Proof
end

section
/-! PROOFS. What executing an instruction can do to the machine, said once as the shapes its next state can have, and the
statements about all instructions that follow from it: who writes what (R22, R52, R106), and the invariant. -/

namespace Sys2Proof.Machine

/-! ### The shapes of a next state -/

/-- The instructions an error comes from (R120, R123, R230, R243). -/
def Raises (i : Instr) : MachineError → Prop
  | .unrecognizedOpcode _ => ∃ nnn, i = .sys nnn
  | .stackOverflow => ∃ nnn, i = .call nnn
  | .stackUnderflow => i = .ret
  | .outOfBoundsAccess _ => (∃ x y n, i = .drw x y n) ∨ ∃ x, i = .ldB x ∨ i = .ldMemVx x ∨ i = .ldVxMem x

/-- New registers under which `VF` differs only where the instruction may write it (R22). -/
def FlagWriteAllowed (i : Instr) (s : State) (v : Vector Byte 16) : Prop :=
  v[(15 : RegIdx)] ≠ s.reg 15 → mayWriteFlag s.config i

/-- The next states of an instruction, one constructor per set of fields written together. -/
inductive Effect (i : Instr) (s : State) : State → Prop where
  | error (e : MachineError) (hi : Raises i e) : Effect i s (s.takeError e)
  | registers (v : Vector Byte 16) (pc : Word) (hv : FlagWriteAllowed i s v) : Effect i s { s with v := v, pc := pc }
  | display (fb : Framebuffer) (v : Vector Byte 16) (pc : Word) (hi : i = .cls ∨ ∃ x y n, i = .drw x y n)
      (hv : FlagWriteAllowed i s v) : Effect i s { s with fb := fb, v := v, displayDirty := true, pc := pc }
  | stack (l : List Word) (pc : Word) (hi : i = .ret ∨ ∃ nnn, i = .call nnn)
      (hl : s.stack.length ≤ 16 → l.length ≤ 16) : Effect i s { s with stack := l, pc := pc }
  | index (a : Word) (v : Vector Byte 16) (pc : Word)
      (hi : (∃ nnn, i = .ldI nnn) ∨ ∃ x, i = .addI x ∨ i = .ldF x ∨
        (i = .ldVxMem x ∧ (a ≠ s.i → s.config.quirks.incrementIndexOnBlockIo = true)))
      (hv : FlagWriteAllowed i s v) : Effect i s { s with i := a, v := v, pc := pc }
  | store (x : RegIdx) (bytes : List Byte) (a pc : Word)
      (hi : i = .ldB x ∧ a = s.i ∨ i = .ldMemVx x ∧ (a ≠ s.i → s.config.quirks.incrementIndexOnBlockIo = true))
      (hlow : 0x200 ≤ s.i.toNat) (hhigh : s.i.toNat + bytes.length ≤ 0x1000) :
      Effect i s { s with mem := (s.writeBytes s.i.toNat bytes).mem, i := a, pc := pc }
  | delay (x : RegIdx) (b : Byte) (pc : Word) (hi : i = .ldDtVx x) : Effect i s { s with dt := b, pc := pc }
  | sound (x : RegIdx) (b : Byte) (pc : Word) (hi : i = .ldStVx x) : Effect i s { s.setSound b with pc := pc }
  | wait (x : RegIdx) (hi : i = .ldVxK x) : Effect i s { s with mode := .awaitingKey x }
  | draw (x : RegIdx) (nn : Byte) (v : Vector Byte 16) (pc : Word) (hi : i = .rnd x nn)
      (hv : FlagWriteAllowed i s v) : Effect i s { s with v := v, draws := s.draws + 1, pc := pc }

/-- Registers that are not written keep `VF`. -/
theorem flagWriteAllowed_same (i : Instr) (s : State) : FlagWriteAllowed i s s.v := fun h => absurd rfl h

/-- A write of `Vx` alone keeps `VF` unless `x` names it. -/
theorem flagWriteAllowed_set {i : Instr} {s : State} {x : RegIdx} (b : Byte) (h : x = 15 → mayWriteFlag s.config i) :
    FlagWriteAllowed i s (s.v.set x b) := fun hne => by
  refine h (by_contra fun hx => hne ?_)
  exact (State.reg_setReg s x 15 b).trans (if_neg (Ne.symm hx))

/-- The bytes a store of at least one byte writes all lie in program memory (R55, R56). -/
theorem store_bounds {a n : Nat} (h : firstBad writable a (n + 1) = none) : 0x200 ≤ a ∧ a + (n + 1) ≤ 0x1000 := by
  have hw := (firstBad_eq_none _ _ _).mp h
  simp only [writable, decide_eq_true_eq] at hw
  have hfirst := hw a (by omega) (by omega)
  have hlast := hw (a + n) (by omega) (by omega)
  omega

/-- The index after a block transfer moves only under its quirk (R176). -/
theorem State.indexAfterBlock_ne {s : State} {x : RegIdx} (h : s.indexAfterBlock x ≠ s.i) :
    s.config.quirks.incrementIndexOnBlockIo = true := by
  by_contra hq
  exact h (if_neg hq)

/-- Every instruction goes on to a next state of one of the shapes. -/
theorem exec_effect (i : Instr) (s : State) : ∃ t, exec i s = .next t ∧ Effect i s t := by
  cases i with
  | cls => exact ⟨_, exec_cls s, .display _ s.v _ (.inl rfl) (flagWriteAllowed_same _ s)⟩
  | ret =>
    rcases s.stack.eq_nil_or_concat' with h | ⟨below, top, h⟩
    · exact ⟨_, exec_ret_nil s h, .error _ rfl⟩
    · refine ⟨_, exec_ret s below top h, .stack _ _ (.inl rfl) fun hl => ?_⟩
      simp only [h, List.length_append, List.length_singleton] at hl
      omega
  | sys nnn => exact ⟨_, exec_sys nnn s, .error _ ⟨nnn, rfl⟩⟩
  | jp nnn => exact ⟨_, exec_jp nnn s, .registers s.v _ (flagWriteAllowed_same _ s)⟩
  | call nnn =>
    rcases Nat.lt_or_ge s.stack.length 16 with h | h
    · refine ⟨_, exec_call nnn s h, .stack _ _ (.inr ⟨nnn, rfl⟩) fun _ => ?_⟩
      simpa using h
    · exact ⟨_, exec_call_full nnn s h, .error _ ⟨nnn, rfl⟩⟩
  | seImm x nn => exact ⟨_, exec_seImm x nn s, .registers s.v _ (flagWriteAllowed_same _ s)⟩
  | sneImm x nn => exact ⟨_, exec_sneImm x nn s, .registers s.v _ (flagWriteAllowed_same _ s)⟩
  | seReg x y => exact ⟨_, exec_seReg x y s, .registers s.v _ (flagWriteAllowed_same _ s)⟩
  | ldImm x nn => exact ⟨_, exec_ldImm x nn s, .registers _ _ (flagWriteAllowed_set _ id)⟩
  | addImm x nn => exact ⟨_, exec_addImm x nn s, .registers _ _ (flagWriteAllowed_set _ id)⟩
  | ldReg x y => exact ⟨_, exec_ldReg x y s, .registers _ _ (flagWriteAllowed_set _ id)⟩
  | or x y => exact ⟨_, exec_or x y s, .registers _ _ (flagWriteAllowed_set _ id)⟩
  | and x y => exact ⟨_, exec_and x y s, .registers _ _ (flagWriteAllowed_set _ id)⟩
  | xor x y => exact ⟨_, exec_xor x y s, .registers _ _ (flagWriteAllowed_set _ id)⟩
  | addReg x y => exact ⟨_, exec_addReg x y s, .registers _ _ fun _ => trivial⟩
  | sub x y => exact ⟨_, exec_sub x y s, .registers _ _ fun _ => trivial⟩
  | shr x y => exact ⟨_, exec_shr x y s, .registers _ _ fun _ => trivial⟩
  | subn x y => exact ⟨_, exec_subn x y s, .registers _ _ fun _ => trivial⟩
  | shl x y => exact ⟨_, exec_shl x y s, .registers _ _ fun _ => trivial⟩
  | sneReg x y => exact ⟨_, exec_sneReg x y s, .registers s.v _ (flagWriteAllowed_same _ s)⟩
  | ldI nnn => exact ⟨_, exec_ldI nnn s, .index _ s.v _ (.inl ⟨nnn, rfl⟩) (flagWriteAllowed_same _ s)⟩
  | jpV0 nnn => exact ⟨_, exec_jpV0 nnn s, .registers s.v _ (flagWriteAllowed_same _ s)⟩
  | rnd x nn => exact ⟨_, exec_rnd x nn s, .draw x nn _ _ rfl (flagWriteAllowed_set _ id)⟩
  | drw x y n =>
    cases h : firstBad readable s.i.toNat n.val with
    | some a => exact ⟨_, exec_drw_error x y n s a h, .error _ (.inl ⟨x, y, n, rfl⟩)⟩
    | none => exact ⟨_, exec_drw x y n s h, .display _ _ _ (.inr ⟨x, y, n, rfl⟩) fun _ => trivial⟩
  | skp x => exact ⟨_, exec_skp x s, .registers s.v _ (flagWriteAllowed_same _ s)⟩
  | sknp x => exact ⟨_, exec_sknp x s, .registers s.v _ (flagWriteAllowed_same _ s)⟩
  | ldVxDt x => exact ⟨_, exec_ldVxDt x s, .registers _ _ (flagWriteAllowed_set _ id)⟩
  | ldVxK x => exact ⟨_, exec_ldVxK x s, .wait x rfl⟩
  | ldDtVx x => exact ⟨_, exec_ldDtVx x s, .delay x _ _ rfl⟩
  | ldStVx x => exact ⟨_, exec_ldStVx x s, .sound x _ _ rfl⟩
  | addI x =>
    refine ⟨_, exec_addI x s, .index _ _ _ (.inr ⟨x, .inl rfl⟩) ?_⟩
    split
    · exact fun _ => ‹_›
    · exact flagWriteAllowed_same _ s
  | ldF x => exact ⟨_, exec_ldF x s, .index _ s.v _ (.inr ⟨x, .inr (.inl rfl)⟩) (flagWriteAllowed_same _ s)⟩
  | ldB x =>
    cases h : firstBad writable s.i.toNat 3 with
    | some a => exact ⟨_, exec_ldB_error x s a h, .error _ (.inr ⟨x, .inl rfl⟩)⟩
    | none =>
      obtain ⟨hlow, hhigh⟩ := store_bounds h
      exact ⟨_, exec_ldB x s h, .store x _ s.i _ (.inl ⟨rfl, rfl⟩) hlow hhigh⟩
  | ldMemVx x =>
    cases h : firstBad writable s.i.toNat (blockSize x) with
    | some a => exact ⟨_, exec_ldMemVx_error x s a h, .error _ (.inr ⟨x, .inr (.inl rfl)⟩)⟩
    | none =>
      obtain ⟨hlow, hhigh⟩ := store_bounds h
      refine ⟨_, exec_ldMemVx x s h, .store x _ _ _ (.inr ⟨rfl, State.indexAfterBlock_ne⟩) hlow ?_⟩
      simpa [blockRegs_length, blockSize] using hhigh
  | ldVxMem x =>
    cases h : firstBad readable s.i.toNat (blockSize x) with
    | some a => exact ⟨_, exec_ldVxMem_error x s a h, .error _ (.inr ⟨x, .inr (.inr rfl)⟩)⟩
    | none =>
      refine ⟨_, exec_ldVxMem x s h, .index _ _ _ (.inr ⟨x, .inr (.inr ⟨rfl, State.indexAfterBlock_ne⟩)⟩) fun hne => ?_⟩
      by_contra hx
      refine hne ((State.reg_loadBlock s x 15).trans (if_neg fun hle => hx ?_))
      exact Fin.le_antisymm (Fin.le_last x) hle

/-- The next state of an instruction has one of the shapes. -/
theorem effect_of_exec {i : Instr} {s t : State} (h : exec i s = .next t) : Effect i s t := by
  obtain ⟨u, hu, he⟩ := exec_effect i s
  cases h.symm.trans hu
  exact he

/-! ### Statements over all instructions -/

/-- Settles O10: the only shape with a new report is that of an error, which `takeError` makes. -/
theorem failingInstructionsDoNothingElse : Obligations.FailingInstructionsDoNothingElse := by
  intro i s t h
  cases effect_of_exec h with
  | error e hi => exact .inr ⟨e, s.takeError_errorTaken e, by cases e <;> exact hi⟩
  | _ => exact .inl rfl

/-- Settles O48: a shape either leaves the registers or was allowed its write of `VF`. -/
theorem onlyTheListedInstructionsWriteVF : Obligations.OnlyTheListedInstructionsWriteVF := by
  intro i s t h hne
  cases effect_of_exec h with
  | registers v pc hv => exact hv hne
  | display fb v pc hi hv => exact hv hne
  | index a v pc hi hv => exact hv hne
  | draw x nn v pc hi hv => exact hv hne
  | _ => exact absurd rfl hne

/-- The clauses of EachPartHasItsWriters by name. A clause that is left out is one whose part is unchanged by definition. -/
structure WritersOf (i : Instr) (s t : State) : Prop where
  fb : t.fb ≠ s.fb → i = .cls ∨ ∃ x y n, i = .drw x y n := by exact fun h => absurd rfl h
  displayDirty : t.displayDirty ≠ s.displayDirty → t.displayDirty = true ∧ (i = .cls ∨ ∃ x y n, i = .drw x y n) := by
    exact fun h => absurd rfl h
  stack : t.stack ≠ s.stack → i = .ret ∨ ∃ nnn, i = .call nnn := by exact fun h => absurd rfl h
  mem : t.mem ≠ s.mem → ∃ x, i = .ldB x ∨ i = .ldMemVx x := by exact fun h => absurd rfl h
  dt : t.dt ≠ s.dt → ∃ x, i = .ldDtVx x := by exact fun h => absurd rfl h
  st : t.st ≠ s.st → ∃ x, i = .ldStVx x := by exact fun h => absurd rfl h
  index : t.i ≠ s.i → (∃ nnn, i = .ldI nnn) ∨ ∃ x, i = .addI x ∨ i = .ldF x ∨
    ((i = .ldMemVx x ∨ i = .ldVxMem x) ∧ s.config.quirks.incrementIndexOnBlockIo = true) := by
    exact fun h => absurd rfl h
  mode : t.mode ≠ s.mode → (∃ x, i = .ldVxK x ∧ t.mode = .awaitingKey x) ∨ ∃ e, t.mode = .halted e ∧ ErrorTaken e s t := by
    exact fun h => absurd rfl h
  draws : t.draws ≠ s.draws → ∃ x nn, i = .rnd x nn := by exact fun h => absurd rfl h
  keys : t.keys = s.keys := by rfl
  config : t.config = s.config := by rfl
  schedule : t.schedule = s.schedule := by rfl

theorem Effect.writersOf {i : Instr} {s t : State} (h : Effect i s t) : WritersOf i s t := by
  cases h with
  | error e hi =>
    exact {
      mode := fun hne => by
        rw [State.takeError_mode] at hne ⊢
        split at hne
        · exact .inr ⟨e, if_pos ‹_›, s.takeError_errorTaken e⟩
        · exact absurd rfl hne }
  | registers v pc hv => exact {}
  | display fb v pc hi hv => exact { fb := fun _ => hi, displayDirty := fun _ => ⟨rfl, hi⟩ }
  | stack l pc hi hl => exact { stack := fun _ => hi }
  | index a v pc hi hv =>
    refine { index := fun hne => ?_ }
    rcases hi with hi | ⟨x, hi | hi | ⟨hi, hq⟩⟩
    · exact .inl hi
    · exact .inr ⟨x, .inl hi⟩
    · exact .inr ⟨x, .inr (.inl hi)⟩
    · exact .inr ⟨x, .inr (.inr ⟨.inr hi, hq hne⟩)⟩
  | store x bytes a pc hi hlow hhigh =>
    rcases hi with ⟨hi, rfl⟩ | ⟨hi, hq⟩
    · exact { mem := fun _ => ⟨x, .inl hi⟩ }
    · exact { mem := fun _ => ⟨x, .inr hi⟩, index := fun hne => .inr ⟨x, .inr (.inr ⟨.inl hi, hq hne⟩)⟩ }
  | delay x b pc hi => exact { dt := fun _ => ⟨x, hi⟩ }
  | sound x b pc hi => exact { st := fun _ => ⟨x, hi⟩ }
  | wait x hi => exact { mode := fun _ => .inl ⟨x, hi, rfl⟩ }
  | draw x nn v pc hi hv => exact { draws := fun _ => ⟨x, nn, hi⟩ }

/-- Settles O49: the clauses of `WritersOf`, which every shape meets. -/
theorem eachPartHasItsWriters : Obligations.EachPartHasItsWriters := by
  intro i s t h
  have hw := (effect_of_exec h).writersOf
  exact ⟨hw.fb, hw.displayDirty, hw.stack, hw.mem, hw.dt, hw.st, hw.index, hw.mode, hw.draws, hw.keys, hw.config, hw.schedule⟩

/-! ### The invariant -/

/-- Settles O45: memory, stack and notifications are empty and the sound is off. -/
theorem resetMeetsTheInvariant : Obligations.ResetMeetsTheInvariant :=
  { memory := ⟨List.Pairwise.nil, nofun⟩, reserved := nofun, depth := Nat.zero_le _, sound := rfl }

/-- The invariant speaks of the configuration, memory, the stack, the sound timer and its notifications alone. -/
theorem State.Inv.frame {s t : State} (h : s.Inv) (hconfig : t.config = s.config := by rfl) (hmem : t.mem = s.mem := by rfl)
    (hstack : t.stack = s.stack := by rfl) (hst : t.st = s.st := by rfl)
    (hnotes : t.soundNotes = s.soundNotes := by rfl) : t.Inv := by
  refine { memory := ?_, reserved := ?_, depth := ?_, sound := ?_ }
  · rw [hconfig, hmem]
    exact h.memory
  · rw [hmem]
    exact h.reserved
  · rw [hstack]
    exact h.depth
  · rw [hnotes, State.soundOn, hst]
    exact h.sound

/-- A write of the sound timer leaves the audio device with the new level, when it had the old one (R258). -/
theorem State.Inv.setSound {s : State} (h : s.Inv) (b : Byte) : (s.setSound b).Inv := by
  refine { memory := h.memory, reserved := h.reserved, depth := h.depth, sound := ?_ }
  have hsound := h.sound
  rw [State.setSound_soundNotes, State.setSound_soundOn]
  split
  · rfl
  · rw [hsound]
    simpa using ‹¬ (s.soundOn != (b != 0)) = true›

/-- Bytes written inside program memory keep the invariant. -/
theorem State.Inv.writeBytes {s : State} (h : s.Inv) (a : Nat) (bytes : List Byte) (hlow : 0x200 ≤ a)
    (hhigh : a + bytes.length ≤ 0x1000) : (s.writeBytes a bytes).Inv := by
  have hwf := State.wf_writeBytes bytes s h.memory a hhigh
  have hmem (c : Host.Cell) (hc : c ∈ (s.writeBytes a bytes).mem) : 0x200 ≤ c.1 := by
    rcases State.mem_writeBytes bytes s a hc with hc | hc
    · exact hlow.trans hc
    · exact h.reserved c hc
  rw [State.writeBytes_eq]
  exact { memory := hwf, reserved := hmem, depth := h.depth, sound := h.sound }

/-- Every shape of a next state keeps the invariant. -/
theorem Effect.inv {i : Instr} {s t : State} (h : s.Inv) (he : Effect i s t) : t.Inv := by
  cases he with
  | stack l pc hi hl => exact { memory := h.memory, reserved := h.reserved, depth := hl h.depth, sound := h.sound }
  | store x bytes a pc hi hlow hhigh =>
    have hw := h.writeBytes s.i.toNat bytes hlow hhigh
    rw [State.writeBytes_eq] at hw
    exact hw.frame
  | sound x b pc hi => exact (h.setSound b).frame
  | _ => exact h.frame

/-- A tick keeps the invariant (R255, R257). -/
theorem State.Inv.tick {s : State} (h : s.Inv) : s.tick.Inv := by
  by_cases hm : ∀ e, s.mode ≠ .halted e
  · rw [s.tick_of_not_halted hm]
    exact State.Inv.setSound (s := s.setDelay (timerAfterTick s.dt)) h.frame _
  · obtain ⟨e, he⟩ := not_forall_not.mp hm
    rwa [s.tick_of_halted e he]

/-- What a key update can answer: a new snapshot, and on the edge that completes a wait the key, the PC and the mode (R264,
R265). -/
theorem State.keyUpdate_cases (s : State) (new : Keys) :
    s.keyUpdate new = { s with keys := new } ∨
    ∃ x k, s.mode = .awaitingKey x ∧ lowestEdge s.keys new = some k ∧
      s.keyUpdate new =
        { s with v := s.v.set x (BitVec.ofNat 8 k.val), pc := s.pc + 2, mode := .running, keys := new } := by
  by_cases hm : ∃ x, s.mode = .awaitingKey x
  · obtain ⟨x, hx⟩ := hm
    cases hk : lowestEdge s.keys new with
    | none => exact .inl (s.keyUpdate_of_no_edge new hk)
    | some k => exact .inr ⟨x, k, hx, rfl, s.keyUpdate_of_edge new x k hx hk⟩
  · exact .inl (s.keyUpdate_of_not_waiting new (not_exists.mp hm))

/-- A reset with a program that fits meets the invariant, when the audio device had the old level. -/
theorem State.Inv.resetWith {s : State} (h : s.Inv) (program : List Byte) (hfit : program.length ≤ maxProgram) :
    (s.resetWith program).Inv := by
  refine State.Inv.writeBytes (s := State.setSound _ 0) (State.Inv.setSound ?_ 0) 0x200 program (Nat.le_refl _) ?_
  · exact { memory := ⟨List.Pairwise.nil, nofun⟩, reserved := nofun, depth := Nat.zero_le _, sound := h.sound }
  · unfold maxProgram at hfit
    omega

/-- Every event keeps the invariant. -/
theorem runEvent_inv {e : Event} {s t : State} (h : s.Inv) (ht : runEvent e s = .next t) : t.Inv := by
  rcases runEvent_cases ht with ⟨i, hi⟩ | ⟨er, rfl⟩ | rfl | rfl | ⟨new, rfl⟩ | rfl | ⟨program, hfit, rfl⟩
  · exact (effect_of_exec hi).inv h
  · exact h.frame
  · exact h
  · exact h.tick
  · rcases s.keyUpdate_cases new with hk | ⟨x, k, -, -, hk⟩ <;> rw [hk] <;> exact h.frame
  · exact h.frame
  · exact h.resetWith program hfit

/-- A step is one event of the machine with that event off the schedule. -/
theorem step_eq_runEvent (s : State) : ∃ e rest, step s = runEvent e { s with schedule := rest } := by
  cases h : s.schedule with
  | nil => exact ⟨.step, s.schedule, step_of_empty s h⟩
  | cons e rest => exact ⟨e, rest, step_of_cons s e rest h⟩

/-- Settles O46: a step is one event, and every event keeps the invariant. -/
theorem everyEventKeepsTheInvariant : Obligations.EveryEventKeepsTheInvariant := by
  intro s t h ht
  obtain ⟨e, rest, hstep⟩ := step_eq_runEvent s
  exact runEvent_inv (s := { s with schedule := rest }) h.frame (hstep.symm.trans ht)

/-! ### The reserved region -/

/-- No event changes the configuration (R33, R266). -/
theorem runEvent_config {e : Event} {s t : State} (ht : runEvent e s = .next t) : t.config = s.config := by
  rcases runEvent_cases ht with ⟨i, hi⟩ | ⟨er, rfl⟩ | rfl | rfl | ⟨new, rfl⟩ | rfl | ⟨program, -, rfl⟩
  · exact (effect_of_exec hi).writersOf.config
  · rfl
  · rfl
  · unfold State.tick
    split <;> rfl
  · rcases s.keyUpdate_cases new with hk | ⟨x, k, -, -, hk⟩ <;> rw [hk]
  · rfl
  · rw [State.resetWith_eq]

/-- Under the invariant the reserved region reads as its reset contents: nothing is listed there. -/
theorem State.Inv.readByte_reserved {s : State} (h : s.Inv) {a : Nat} (ha : a < 0x200) :
    s.readByte a = s.config.resetByte a := by
  have hnone : Memory.lookup a s.mem = none := Memory.lookup_eq_none a s.mem fun c hc hca => by
    have := h.reserved c hc
    omega
  simp [State.readByte, Memory.read, hnone]

/-- Settles O47: before and after the event the reserved region reads as the reset contents of the one configuration. -/
theorem theReservedRegionNeverChanges : Obligations.TheReservedRegionNeverChanges := by
  intro s t h ht
  have hconfig : t.config = s.config := by
    obtain ⟨e, rest, hstep⟩ := step_eq_runEvent s
    exact runEvent_config (s := { s with schedule := rest }) (hstep.symm.trans ht)
  refine ⟨hconfig, fun a ha => ?_⟩
  rw [(everyEventKeepsTheInvariant s t h ht).readByte_reserved ha, h.readByte_reserved ha, hconfig]

end Sys2Proof.Machine
end

section
/-! PROOFS. The step and its stops (R100, R107, R231), memory as its reads see it (R58, R60), and the schedule (R247). -/

namespace Sys2Proof.Machine

/-! ### A turn of the executor -/

/-- In mode Running a turn of the executor is a step of the executor (R100). -/
theorem executorTurn_of_running {s : State} (hmode : s.mode = .running) : executorTurn s = executorStep s := by
  rw [executorTurn, hmode]

/-- While a key is awaited a turn of the executor changes nothing (R109, R261). -/
theorem executorTurn_of_awaitingKey {s : State} {x : RegIdx} (hmode : s.mode = .awaitingKey x) :
    executorTurn s = .next s := by
  rw [executorTurn, hmode]

/-- In mode Halted a turn of the executor is a fault (R109, R269). -/
theorem executorTurn_of_halted {s : State} {e : MachineError} (hmode : s.mode = .halted e) :
    executorTurn s = .fault (.halted e) := by
  rw [executorTurn, hmode]

/-- The three modes (R36). -/
theorem Mode.eq_cases (m : Mode) : m = .running ∨ (∃ x, m = .awaitingKey x) ∨ ∃ e, m = .halted e := by
  cases m with
  | running => exact .inl rfl
  | awaitingKey x => exact .inr (.inl ⟨x, rfl⟩)
  | halted e => exact .inr (.inr ⟨e, rfl⟩)

/-- In mode Running with nothing scheduled a step is a step of the executor. -/
theorem step_of_running {s : State} (hmode : s.mode = .running) (hschedule : s.schedule = []) :
    step s = executorStep s :=
  (step_of_empty s hschedule).trans (executorTurn_of_running hmode)

/-- A step of the executor with both bytes in memory executes the descriptor of their word (R100). -/
theorem executorStep_of_fetch {s : State} (hpc : s.pc.toNat + 1 < 0x1000) :
    executorStep s =
      execDescriptor (decode (wordOfBytes (s.readByte s.pc.toNat) (s.readByte (s.pc.toNat + 1)))) s := by
  rw [executorStep, s.fetch_ok hpc]

/-- What two bytes in memory order decode to. -/
theorem decode_of_decodeBytes {hi lo : Byte} {i : Instr} (h : decodeBytes [hi, lo] = .ok (i, [])) :
    decode (wordOfBytes hi lo) = .instr i := by
  rw [decodeBytes] at h
  split at h
  · cases h
    assumption
  · cases h

/-- In mode Running a turn of the executor executes the instruction its bytes decode to. -/
theorem executorTurn_of_decodeBytes {s : State} {i : Instr} (hmode : s.mode = .running) (hpc : s.pc.toNat + 1 < 0x1000)
    (hbytes : decodeBytes [s.readByte s.pc.toNat, s.readByte (s.pc.toNat + 1)] = .ok (i, [])) :
    executorTurn s = exec i s := by
  rw [executorTurn_of_running hmode, executorStep_of_fetch hpc, decode_of_decodeBytes hbytes, execDescriptor]

/-- Settles O6: the step is a turn of the executor, in the state itself or in the one with the scheduled step taken off, which
has the same mode, PC and memory. -/
theorem stepRunsTheDecodedInstruction : Obligations.StepRunsTheDecodedInstruction := by
  intro s i rest hmode hpc hbytes _
  refine ⟨fun h => ?_, fun h => ?_⟩
  · exact (step_of_empty s h).trans (executorTurn_of_decodeBytes hmode hpc hbytes)
  · exact (step_of_cons s _ rest h).trans (executorTurn_of_decodeBytes (s := { s with schedule := rest }) hmode hpc hbytes)

/-- Settles O7: the first address a failing fetch misses is 0x1000 from 0xFFF and the PC itself from above. -/
theorem fetchOutsideMemoryIsReported : Obligations.FetchOutsideMemoryIsReported := by
  intro s hmode hschedule hpc
  have haddress : (if s.pc.toNat < 0x1000 then 0x1000 else s.pc.toNat) =
      if s.pc.toNat = 0xFFF then 0x1000 else s.pc.toNat := by
    split <;> split <;> omega
  refine ⟨_, ?_, s.takeError_errorTaken _⟩
  rw [step_of_running hmode hschedule, executorStep, s.fetch_error (by omega), haddress]
  rfl

/-- Settles O8: the descriptor of the fetched word is the word itself, whose execution takes the error. -/
theorem unrecognizedWordIsReported : Obligations.UnrecognizedWordIsReported := by
  intro s w hmode hschedule hpc hw
  refine ⟨_, ?_, s.takeError_errorTaken (.unrecognizedOpcode w)⟩
  rw [step_of_running hmode hschedule, executorStep_of_fetch hpc, hw]
  rfl

/-- Settles O9: `SYS` takes the error of its own word. -/
theorem sysReportsItsOwnWord : Obligations.SysReportsItsOwnWord :=
  fun nnn s => ⟨_, exec_sys nnn s, s.takeError_errorTaken _⟩

/-! ### The stops of a step -/

/-- A turn of the executor faults in mode Halted alone, with the error the mode holds (R109, R269). -/
theorem executorTurn_fault_iff (s : State) (f : Fault) :
    executorTurn s = .fault f ↔ ∃ e, s.mode = .halted e ∧ f = .halted e := by
  rcases Mode.eq_cases s.mode with hm | ⟨x, hm⟩ | ⟨e, hm⟩
  · obtain ⟨t, ht⟩ := executorStep_next s
    simp [executorTurn_of_running hm, hm, ht]
  · simp [executorTurn_of_awaitingKey hm, hm]
  · simp [executorTurn_of_halted hm, hm, eq_comm]

/-- A turn of the executor refuses nothing. -/
theorem executorTurn_not_refused (s : State) (r : Refusal) : executorTurn s ≠ .refused r := by
  rcases Mode.eq_cases s.mode with hm | ⟨x, hm⟩ | ⟨e, hm⟩
  · obtain ⟨t, ht⟩ := executorStep_next s
    simp [executorTurn_of_running hm, ht]
  · simp [executorTurn_of_awaitingKey hm]
  · simp [executorTurn_of_halted hm]

/-- An event faults exactly when it is a turn of the executor that does, or the host's stop. -/
theorem runEvent_fault_iff (e : Event) (s : State) (f : Fault) :
    runEvent e s = .fault f ↔
      (e = .step ∧ ∃ er, s.mode = .halted er ∧ f = .halted er) ∨ (e = .stop ∧ f = .hostStopped) := by
  cases e with
  | step => simp [runEvent, executorTurn_fault_iff]
  | reset program => simp only [runEvent, State.loadProgram]; split <;> simp
  | stop => simp [runEvent, eq_comm]
  | _ => simp [runEvent]

/-- An event refuses exactly when it is a reset with a program that does not fit (R284). -/
theorem runEvent_refused_iff (e : Event) (s : State) (r : Refusal) :
    runEvent e s = .refused r ↔
      ∃ program, e = .reset program ∧ maxProgram < program.length ∧ r = .programTooLong program.length := by
  cases e with
  | step => simp [runEvent, executorTurn_not_refused]
  | reset program =>
    simp only [runEvent, State.loadProgram]
    split
    · simpa using fun h : maxProgram < program.length => by omega
    · simp [eq_comm, Nat.lt_of_not_le ‹_›]
  | _ => simp [runEvent]

/-- Settles O11: with nothing scheduled the step is a turn of the executor, else it is the first event. -/
theorem stepsStopOnlyWhenTheRunIsOver : Obligations.StepsStopOnlyWhenTheRunIsOver := by
  intro s
  cases hs : s.schedule with
  | nil => simp [step_of_empty s hs, executorTurn_fault_iff, executorTurn_not_refused]
  | cons e rest =>
    simp only [step_of_cons s e rest hs, runEvent_fault_iff, runEvent_refused_iff, maxProgram]
    refine ⟨fun f => ?_, fun r => ?_⟩
    · simp
    · simp

/-! ### Memory -/

/-- A tick neither reads nor writes memory and the schedule. -/
theorem State.tick_with (s : State) (m : Memory) (l : List Event) :
    ({ s with mem := m, schedule := l } : State).tick = { s.tick with mem := m, schedule := l } := by
  by_cases hm : ∃ e, s.mode = .halted e
  · obtain ⟨e, he⟩ := hm
    rw [s.tick_of_halted e he]
    exact State.tick_of_halted _ e he
  · rw [s.tick_of_not_halted (not_exists.mp hm)]
    exact State.tick_of_not_halted _ (not_exists.mp hm)

/-- A key update neither reads nor writes memory and the schedule. -/
theorem State.keyUpdate_with (s : State) (new : Keys) (m : Memory) (l : List Event) :
    ({ s with mem := m, schedule := l } : State).keyUpdate new = { s.keyUpdate new with mem := m, schedule := l } := by
  cases hk : lowestEdge s.keys new with
  | none =>
    rw [s.keyUpdate_of_no_edge new hk]
    exact State.keyUpdate_of_no_edge _ new hk
  | some k =>
    by_cases hm : ∃ x, s.mode = .awaitingKey x
    · obtain ⟨x, hx⟩ := hm
      rw [s.keyUpdate_of_edge new x k hx hk]
      exact State.keyUpdate_of_edge _ new x k hx hk
    · rw [s.keyUpdate_of_not_waiting new (not_exists.mp hm)]
      exact State.keyUpdate_of_not_waiting _ new (not_exists.mp hm)

/-- An event that is no step and no reset goes on alike from any memory and any schedule. -/
theorem runEvent_with {e : Event} {s t : State} (hstep : e ≠ .step) (hreset : ∀ program, e ≠ .reset program)
    (ht : runEvent e s = .next t) (m : Memory) (l : List Event) :
    runEvent e { s with mem := m, schedule := l } = .next { t with mem := m, schedule := l } := by
  cases e with
  | step => exact absurd rfl hstep
  | tick => cases ht; exact congrArg _ (s.tick_with m l)
  | keyUpdate new => cases ht; exact congrArg _ (s.keyUpdate_with new m l)
  | present => cases ht; rfl
  | reset program => exact absurd rfl (hreset program)
  | stop => cases ht

/-- An event that is no step and no reset keeps memory and the schedule. -/
theorem runEvent_keeps {e : Event} {s t : State} (hstep : e ≠ .step) (hreset : ∀ program, e ≠ .reset program)
    (ht : runEvent e s = .next t) : t.mem = s.mem ∧ t.schedule = s.schedule := by
  have hown : t = { t with mem := s.mem, schedule := s.schedule } :=
    Host.Outcome.next.inj (ht.symm.trans (runEvent_with hstep hreset ht s.mem s.schedule))
  rw [hown]
  exact ⟨rfl, rfl⟩

/-- Two states with the same configuration and the same listed bytes read the same memory. -/
theorem sameMemory_of_eq {s t : State} (hconfig : t.config = s.config) (hmem : t.mem = s.mem) : SameMemory s t :=
  fun a => by rw [State.readByte, State.readByte, hconfig, hmem]

/-- Settles O12: the read after a write is `readByte_writeByte`, an empty list reads as the reset contents, and the events of
the other agents keep memory and go on alike from any. -/
theorem readsSeeTheLastWrite : Obligations.ReadsSeeTheLastWrite := by
  intro s h
  refine ⟨fun a b c => s.readByte_writeByte h.memory.1 a c b, fun hempty a => ?_, fun e t hstep hreset ht => ?_⟩
  · simp [State.readByte, hempty, Memory.read, Memory.lookup]
  · obtain ⟨hmem, hschedule⟩ := runEvent_keeps hstep hreset ht
    refine ⟨sameMemory_of_eq (runEvent_config ht) hmem, fun m => ?_⟩
    refine (runEvent_with hstep hreset ht m s.schedule).trans ?_
    rw [← hschedule]

/-- The big-endian word of a word's two bytes (R53). -/
theorem wordOfBytes_bytes (w : Word) : wordOfBytes (w.extractLsb' 8 8) (w.extractLsb' 0 8) = w := by
  refine BitVec.eq_of_getLsbD_eq fun i hi => ?_
  interval_cases i <;> simp [wordOfBytes, placeField]

/-- Settles O13: the two bytes at the PC read as they were written, and make up the word. -/
theorem theNextFetchSeesTheStoredWord : Obligations.TheNextFetchSeesTheStoredWord := by
  rintro s u w h hmode hschedule hpc rfl
  have hrising := h.memory.1
  have hfirst := s.writeByte_rising hrising s.pc.toNat (w.extractLsb' 8 8)
  rw [step_of_running (by exact hmode) (by exact hschedule), executorStep_of_fetch (by exact hpc)]
  congr 2
  simp only [State.writeByte_pc, State.readByte_writeByte _ hfirst, State.readByte_writeByte _ hrising]
  simpa using wordOfBytes_bytes w

/-! ### What an instruction does not read: keys, draws and the schedule (R105) -/

/-- The state with other keys, another count of draws and another schedule. -/
def State.withOutside (s : State) (keys : Keys) (draws : Nat) (schedule : List Event) : State :=
  { s with keys := keys, draws := draws, schedule := schedule }

/-- How many draws of the random source an instruction makes (R193). -/
def drawsOf : Instr → Nat
  | .rnd _ _ => 1
  | _ => 0

theorem drawsOf_eq_zero {i : Instr} (h : ∀ x nn, i ≠ .rnd x nn) : drawsOf i = 0 := by
  cases i with
  | rnd x nn => exact absurd rfl (h x nn)
  | _ => rfl

/-- What bytes written leave in memory depends on the configuration and memory alone. -/
theorem State.writeBytes_mem_congr (bytes : List Byte) {s t : State} (hconfig : t.config = s.config) (hmem : t.mem = s.mem)
    (a : Nat) : (t.writeBytes a bytes).mem = (s.writeBytes a bytes).mem := by
  induction bytes generalizing s t a with
  | nil => exact hmem
  | cons b bytes ih => exact ih (s := s.writeByte a b) (t := t.writeByte a b) hconfig (by simp [hconfig, hmem]) (a + 1)

theorem State.withOutside_writeBytes_mem (s : State) (keys : Keys) (draws : Nat) (schedule : List Event) (a : Nat)
    (bytes : List Byte) : ((s.withOutside keys draws schedule).writeBytes a bytes).mem = (s.writeBytes a bytes).mem :=
  State.writeBytes_mem_congr bytes (s := s) (t := s.withOutside keys draws schedule) rfl rfl a

/-- States whose registers read the same hold the same registers. -/
theorem State.v_eq_of_reg {s t : State} (h : ∀ q, t.reg q = s.reg q) : t.v = s.v :=
  Vector.ext fun k hk => h ⟨k, hk⟩

section
variable {s t : State} (keys : Keys) (draws : Nat) (schedule : List Event)

/-- An instruction goes on alike from other keys, unless it is `EX9E` or `EXA1`, from another count of draws, unless it is
`CXNN` and the byte drawn is another, and from another schedule. -/
theorem exec_withOutside {i : Instr} (hkeys : (∀ x, i ≠ .skp x ∧ i ≠ .sknp x) ∨ keys = s.keys)
    (hdraws : (∀ x nn, i ≠ .rnd x nn) ∨ Config.randomByte draws = Config.randomByte s.draws) (h : exec i s = .next t) :
    exec i (s.withOutside keys draws schedule) = .next (t.withOutside keys (draws + drawsOf i) schedule) := by
  cases i with
  | skp x =>
    obtain rfl := hkeys.resolve_left fun hne => (hne x).1 rfl
    rw [exec_skp] at h
    cases h
    exact exec_skp x _
  | sknp x =>
    obtain rfl := hkeys.resolve_left fun hne => (hne x).2 rfl
    rw [exec_sknp] at h
    cases h
    exact exec_sknp x _
  | rnd x nn =>
    have hbyte := hdraws.resolve_left fun hne => hne x nn rfl
    rw [exec_rnd] at h
    cases h
    rw [exec_rnd, State.nextDraw, State.nextDraw, ← hbyte]
    rfl
  | ret =>
    rcases s.stack.eq_nil_or_concat' with hs | ⟨below, top, hs⟩
    · rw [exec_ret_nil s hs] at h
      cases h
      exact exec_ret_nil _ hs
    · rw [exec_ret s below top hs] at h
      cases h
      exact exec_ret _ below top hs
  | call nnn =>
    rcases Nat.lt_or_ge s.stack.length 16 with hs | hs
    · rw [exec_call nnn s hs] at h
      cases h
      exact exec_call nnn _ hs
    · rw [exec_call_full nnn s hs] at h
      cases h
      exact exec_call_full nnn _ hs
  | seImm x nn => rw [exec_seImm] at h; cases h; exact exec_seImm x nn _
  | sneImm x nn => rw [exec_sneImm] at h; cases h; exact exec_sneImm x nn _
  | seReg x y => rw [exec_seReg] at h; cases h; exact exec_seReg x y _
  | sneReg x y => rw [exec_sneReg] at h; cases h; exact exec_sneReg x y _
  | addI x => rw [exec_addI] at h; cases h; exact exec_addI x _
  | drw x y n =>
    cases hb : firstBad readable s.i.toNat n.val with
    | some a =>
      rw [exec_drw_error x y n s a hb] at h
      cases h
      exact exec_drw_error x y n _ a hb
    | none =>
      rw [exec_drw x y n s hb] at h
      cases h
      exact exec_drw x y n _ hb
  | ldB x =>
    cases hb : firstBad writable s.i.toNat 3 with
    | some a =>
      rw [exec_ldB_error x s a hb] at h
      cases h
      exact exec_ldB_error x _ a hb
    | none =>
      rw [exec_ldB x s hb] at h
      cases h
      rw [exec_ldB x (s.withOutside keys draws schedule) hb, State.withOutside_writeBytes_mem]
      rfl
  | ldMemVx x =>
    cases hb : firstBad writable s.i.toNat (blockSize x) with
    | some a =>
      rw [exec_ldMemVx_error x s a hb] at h
      cases h
      exact exec_ldMemVx_error x _ a hb
    | none =>
      rw [exec_ldMemVx x s hb] at h
      cases h
      rw [exec_ldMemVx x (s.withOutside keys draws schedule) hb, State.withOutside_writeBytes_mem]
      rfl
  | ldVxMem x =>
    cases hb : firstBad readable s.i.toNat (blockSize x) with
    | some a =>
      rw [exec_ldVxMem_error x s a hb] at h
      cases h
      exact exec_ldVxMem_error x _ a hb
    | none =>
      rw [exec_ldVxMem x s hb] at h
      cases h
      have hv : ((s.withOutside keys draws schedule).loadBlock x).v = (s.loadBlock x).v :=
        State.v_eq_of_reg fun q => by rw [State.reg_loadBlock, State.reg_loadBlock]; rfl
      rw [exec_ldVxMem x (s.withOutside keys draws schedule) hb, hv]
      rfl
  | _ => cases h; rfl

/-- An instruction keeps keys and schedule and makes its draws. -/
theorem exec_outside {i : Instr} (h : exec i s = .next t) :
    t = t.withOutside s.keys (s.draws + drawsOf i) s.schedule :=
  Host.Outcome.next.inj (h.symm.trans (exec_withOutside s.keys s.draws s.schedule (.inr rfl) (.inr rfl) h))

end

/-- Settles O50: each clause varies one of the parts `exec_withOutside` varies, and the others are the machine's own. -/
theorem keysAndDrawsAreReadByTheirInstructionsAlone : Obligations.KeysAndDrawsAreReadByTheirInstructionsAlone := by
  intro i s keys draws
  obtain ⟨t, ht⟩ := exec_next i s
  have hown := exec_outside ht
  refine ⟨t, ht, fun hi => ?_, fun hi => ?_, fun hbyte x nn hi => ?_⟩
  · have hwith := exec_withOutside keys s.draws s.schedule (.inl hi) (.inr rfl) ht
    rw [hown]
    exact hwith
  · have hwith := exec_withOutside s.keys draws s.schedule (.inr rfl) (.inl hi) ht
    rw [hown, drawsOf_eq_zero hi] at *
    exact hwith
  · have hwith := exec_withOutside s.keys draws s.schedule (.inr rfl) (.inr hbyte) ht
    subst hi
    rw [hown]
    exact hwith

/-! ### Schedules -/

/-- An outcome with its next state under another schedule. -/
def withSchedule (schedule : List Event) : Host.Outcome State Fault Refusal → Host.Outcome State Fault Refusal
  | .next t => .next { t with schedule := schedule }
  | .fault f => .fault f
  | .refused r => .refused r

/-- Taking an error neither reads nor writes the schedule, and neither does an instruction: so a step of the executor. -/
theorem executorStep_withSchedule (s : State) (schedule : List Event) :
    executorStep { s with schedule := schedule } = withSchedule schedule (executorStep s) := by
  have hfetch : ({ s with schedule := schedule } : State).fetch = s.fetch := rfl
  rw [executorStep, executorStep, hfetch]
  cases s.fetch with
  | error e => rfl
  | ok w =>
    cases hd : decode w with
    | unrecognized v => simp only [hd]; rfl
    | instr i =>
      obtain ⟨t, ht⟩ := exec_next i s
      have hwith := exec_withOutside s.keys s.draws schedule (.inr rfl) (.inr rfl) ht
      simp only [hd, execDescriptor, ht, withSchedule]
      rw [exec_outside ht]
      exact hwith

/-- The reset operation neither reads nor writes the schedule. -/
theorem State.resetWith_withSchedule (s : State) (program : List Byte) (schedule : List Event) :
    ({ s with schedule := schedule } : State).resetWith program = { s.resetWith program with schedule := schedule } := by
  have hmem : (({ s with schedule := schedule } : State).resetWith program).mem = (s.resetWith program).mem := by
    unfold State.resetWith
    exact State.writeBytes_mem_congr program (by rfl) (by rfl) 0x200
  rw [State.resetWith_eq s, State.resetWith_eq { s with schedule := schedule }, hmem]

/-- An event that is no step and no reset goes on alike from any schedule. -/
theorem runEvent_withSchedule_of_next {e : Event} {s t : State} (hstep : e ≠ .step) (hreset : ∀ program, e ≠ .reset program)
    (ht : runEvent e s = .next t) (schedule : List Event) :
    runEvent e { s with schedule := schedule } = .next { t with schedule := schedule } := by
  refine (runEvent_with hstep hreset ht s.mem schedule).trans ?_
  rw [← (runEvent_keeps hstep hreset ht).1]

/-- No event reads or writes the schedule. -/
theorem runEvent_withSchedule (e : Event) (s : State) (schedule : List Event) :
    runEvent e { s with schedule := schedule } = withSchedule schedule (runEvent e s) := by
  cases e with
  | step =>
    rw [runEvent, runEvent]
    rcases Mode.eq_cases s.mode with hm | ⟨x, hm⟩ | ⟨er, hm⟩
    · have hturn := executorTurn_of_running (s := { s with schedule := schedule }) hm
      rw [hturn, executorTurn_of_running hm, executorStep_withSchedule]
    · have hturn := executorTurn_of_awaitingKey (s := { s with schedule := schedule }) hm
      rw [hturn, executorTurn_of_awaitingKey hm, withSchedule]
    · have hturn := executorTurn_of_halted (s := { s with schedule := schedule }) hm
      rw [hturn, executorTurn_of_halted hm, withSchedule]
  | tick => exact runEvent_withSchedule_of_next (e := .tick) nofun nofun rfl schedule
  | keyUpdate new => exact runEvent_withSchedule_of_next (e := .keyUpdate new) nofun nofun rfl schedule
  | present => rfl
  | reset program =>
    simp only [runEvent, State.loadProgram, State.resetWith_withSchedule]
    split <;> rfl
  | stop => rfl

section
variable {k : Nat} {s : State}

theorem run_succ_of_next {t : State} (h : step s = .next t) :
    Host.Core.run Sys2Proof.core (k + 1) s = Host.Core.run Sys2Proof.core k t := by
  have hstep : Sys2Proof.core.step s = .next t := h
  simp only [Host.Core.run, hstep]

theorem run_succ_of_fault {f : Fault} (h : step s = .fault f) : Host.Core.run Sys2Proof.core (k + 1) s = .fault f := by
  have hstep : Sys2Proof.core.step s = .fault f := h
  simp only [Host.Core.run, hstep]

theorem run_succ_of_refused {r : Refusal} (h : step s = .refused r) :
    Host.Core.run Sys2Proof.core (k + 1) s = .refused r := by
  have hstep : Sys2Proof.core.step s = .refused r := h
  simp only [Host.Core.run, hstep]

end

/-- Settles O54: by induction over the events. A step takes the first of them, does what it does from an empty schedule, and
leaves the others scheduled. -/
theorem everyInterleavingIsASchedule : Obligations.EveryInterleavingIsASchedule := by
  intro events s
  induction events generalizing s with
  | nil => rfl
  | cons e events ih =>
    have hstep : step { s with schedule := e :: events } =
        withSchedule events (runEvent e { s with schedule := [] }) :=
      runEvent_withSchedule e { s with schedule := [] } events
    have hempty : runEvent e { s with schedule := [] } = withSchedule [] (runEvent e { s with schedule := [] }) :=
      runEvent_withSchedule e { s with schedule := [] } []
    rw [List.length_cons, play]
    cases ho : runEvent e { s with schedule := [] } with
    | next t =>
      rw [ho] at hstep hempty
      have ht : t = { t with schedule := [] } := Host.Outcome.next.inj hempty
      rw [run_succ_of_next hstep, ht]
      exact ih t
    | fault f =>
      rw [ho] at hstep
      exact run_succ_of_fault hstep
    | refused r =>
      rw [ho] at hstep
      exact run_succ_of_refused hstep

end Sys2Proof.Machine
end

section
/-! PROOFS. Control transfer (R120 to R129) and the arithmetic that writes registers and the flag (R140 to R153). -/

namespace Sys2Proof.Machine

/-! ### Control transfer -/

/-- A state that differs in registers and PC alone. -/
theorem sameButRegsPc_set (s : State) (v : Vector Byte 16) (pc : Word) : SameButRegsPc s { s with v := v, pc := pc } :=
  ⟨rfl, rfl, ⟨rfl, rfl, rfl⟩, ⟨rfl, rfl⟩, fun _ => rfl, ⟨rfl, rfl, rfl, rfl, rfl, rfl⟩⟩

/-- Settles O14: the next state differs in the stack and the PC. -/
theorem returnPopsTheTop : Obligations.ReturnPopsTheTop := fun s below top h =>
  ⟨_, exec_ret s below top h, rfl, rfl, fun _ => rfl, rfl, ⟨rfl, rfl, rfl⟩, ⟨rfl, rfl⟩, fun _ => rfl,
    ⟨rfl, rfl, rfl, rfl, rfl, rfl⟩⟩

/-- Settles O15: the next state differs in the stack and the PC. -/
theorem callPushesTheReturnAddress : Obligations.CallPushesTheReturnAddress := fun nnn s h =>
  ⟨_, exec_call nnn s h, rfl, rfl, fun _ => rfl, rfl, ⟨rfl, rfl, rfl⟩, ⟨rfl, rfl⟩, fun _ => rfl,
    ⟨rfl, rfl, rfl, rfl, rfl, rfl⟩⟩

/-- Settles O16: at either end of the stack the instruction takes its error. -/
theorem stackErrorsAreReported : Obligations.StackErrorsAreReported := fun nnn s =>
  ⟨fun h => ⟨_, exec_call_full nnn s h.ge, s.takeError_errorTaken _⟩,
    fun h => ⟨_, exec_ret_nil s h, s.takeError_errorTaken _⟩⟩

/-- A 12-bit address as a number. -/
@[simp] theorem addressOperand_toNat (nnn : BitVec 12) : (addressOperand nnn).toNat = nnn.toNat := by
  simp only [addressOperand, BitVec.toNat_setWidth]
  omega

/-- A register as a 16-bit summand keeps its number. -/
@[simp] theorem State.wideReg_toNat (s : State) (r : RegIdx) : (s.wideReg r).toNat = (s.reg r).toNat := by
  simp only [State.wideReg, BitVec.toNat_setWidth]
  omega

/-- Settles O17: a 12-bit address and a byte add up to less than 65536. -/
theorem jumpsSetThePc : Obligations.JumpsSetThePc := by
  intro nnn s
  refine ⟨⟨_, exec_jp nnn s, addressOperand_toNat nnn, fun _ => rfl, sameButRegsPc_set s s.v _⟩,
    ⟨_, exec_jpV0 nnn s, ?_, fun _ => rfl, sameButRegsPc_set s s.v _⟩⟩
  simp only [BitVec.toNat_add, addressOperand_toNat, State.wideReg_toNat]
  omega

/-- An instruction that ends as a skip under a Boolean skips under the condition the Boolean decides (R124). -/
theorem skipsWhen_of_exec {i : Instr} {s : State} {b : Bool} {condition : Prop}
    (h : exec i s = .next { s with pc := if b then s.pc + 4 else s.pc + 2 }) (hb : b = true ↔ condition) :
    SkipsWhen i s condition :=
  ⟨_, h, fun hc => if_pos (hb.mpr hc), fun hc => if_neg (mt hb.mp hc), fun _ => rfl, sameButRegsPc_set s s.v _⟩

/-- The low nibble as a number (R172, R210). -/
theorem lowNibble_val (b : Byte) : (lowNibble b).val = b.toNat % 16 := by
  simp [lowNibble]

/-- The key a register names, by the number of its low nibble (R210). -/
theorem State.keyNamedBy_eq (s : State) (x : RegIdx) : s.keyNamedBy x = s.keys[(s.reg x).toNat % 16] := by
  simp [State.keyNamedBy, lowNibble_val]

/-- Settles O18: each of the six ends as a skip under its condition. -/
theorem skipsMoveThePcAlone : Obligations.SkipsMoveThePcAlone := fun x y nn s =>
  ⟨skipsWhen_of_exec (exec_seImm x nn s) beq_iff_eq, skipsWhen_of_exec (exec_sneImm x nn s) bne_iff_ne,
    skipsWhen_of_exec (exec_seReg x y s) beq_iff_eq, skipsWhen_of_exec (exec_sneReg x y s) bne_iff_ne,
    skipsWhen_of_exec (exec_skp x s) (by rw [State.keyNamedBy_eq]),
    skipsWhen_of_exec (exec_sknp x s) (by rw [State.keyNamedBy_eq, Bool.not_eq_true'])⟩

/-! ### Nested calls -/

/-- The first of several instructions that goes on hands its state to the others. -/
theorem execAll_cons {i : Instr} {is : List Instr} {s t : State} (h : exec i s = .next t) :
    execAll (i :: is) s = execAll is t := by
  simp only [execAll, h]

/-- Instructions that go on hand their state to those after them. -/
theorem execAll_append {is js : List Instr} {s t : State} (h : execAll is s = .next t) :
    execAll (is ++ js) s = execAll js t := by
  induction is generalizing s with
  | nil => cases h; rfl
  | cons i is ih =>
    obtain ⟨u, hu⟩ := exec_next i s
    rw [execAll_cons hu] at h
    rw [List.cons_append, execAll_cons hu, ih h]

/-- Calls and as many returns change the PC alone; where there was a call it ends behind the first one. By induction over the
calls: those inside the first leave its return address on top. -/
theorem execAll_calls_returns (targets : List (BitVec 12)) (s : State) (hroom : s.stack.length + targets.length ≤ 16) :
    ∃ pc, execAll (targets.map Instr.call ++ List.replicate targets.length Instr.ret) s = .next { s with pc := pc } ∧
      (targets ≠ [] → pc = s.pc + 2) := by
  induction targets generalizing s with
  | nil => exact ⟨s.pc, rfl, fun h => absurd rfl h⟩
  | cons target targets ih =>
    rw [List.length_cons] at hroom
    obtain ⟨pc, hinner, -⟩ := ih { s with stack := s.stack ++ [s.pc + 2], pc := addressOperand target } (by
      simp only [List.length_append, List.length_singleton]
      omega)
    refine ⟨s.pc + 2, ?_, fun _ => rfl⟩
    rw [List.length_cons, List.replicate_succ', List.map_cons, List.cons_append, ← List.append_assoc,
      execAll_cons (exec_call target s (by omega)), execAll_append hinner, execAll_cons (exec_ret _ s.stack _ rfl)]
    rfl

/-- Settles O19: calls and returns change the PC alone. -/
theorem nestedCallsReturnToTheCaller : Obligations.NestedCallsReturnToTheCaller := by
  intro targets s hne hroom
  obtain ⟨pc, hexec, hpc⟩ := execAll_calls_returns targets s hroom
  exact ⟨_, hexec, hpc hne, rfl, fun _ => rfl, sameButRegsPc_set s s.v _⟩

/-! ### Register arithmetic -/

/-- Settles O22: each writes `Vx` alone, with the bits of its operation. -/
theorem copyAndBitwiseWriteOneRegister : Obligations.CopyAndBitwiseWriteOneRegister := by
  intro x y s
  refine ⟨writesRegs_of_exec_set (exec_ldReg x y s) fun _ => rfl, writesRegs_of_exec_set (exec_or x y s) fun q k => ?_,
    writesRegs_of_exec_set (exec_and x y s) fun q k => ?_, writesRegs_of_exec_set (exec_xor x y s) fun q k => ?_⟩
  · split
    · exact BitVec.getLsbD_or
    · rfl
  · split
    · exact BitVec.getLsbD_and
    · rfl
  · split
    · exact BitVec.getLsbD_xor
    · rfl

/-- An instruction that writes a result and then a flag writes their numbers, the flag where the two coincide (R140). -/
theorem writesRegs_of_exec_setFlag {i : Instr} {s : State} {x : RegIdx} {result flag : Byte} {m n : Nat}
    (h : exec i s = .next { s with v := (s.v.set x result).set 15 flag, pc := s.pc + 2 }) (hflag : flag.toNat = n)
    (hresult : result.toNat = m) :
    WritesRegs i s (fun q v => v.toNat = if q = 15 then n else if q = x then m else (s.reg q).toNat) := by
  refine ⟨_, h, fun q => ?_, rfl, sameButRegsPc_set s _ _⟩
  refine (congrArg BitVec.toNat (State.reg_setRegAndFlag s x q result flag)).trans ?_
  rw [apply_ite BitVec.toNat, apply_ite BitVec.toNat, hflag, hresult]

/-- A flag as a number (R22). -/
@[simp] theorem flagByte_toNat (b : Bool) : (flagByte b).toNat = if b = true then 1 else 0 := by
  cases b <;> rfl

/-- Settles O23: the sum of two bytes modulo 256, and the carry of the sum that was. -/
theorem addRegistersSetsTheCarry : Obligations.AddRegistersSetsTheCarry := fun x y s =>
  writesRegs_of_exec_setFlag (exec_addReg x y s) (by simp [carryFlag]) (BitVec.toNat_add _ _)

/-- Not-borrow as a number (R149, R152). -/
theorem notBorrowFlag_toNat (a b : Byte) : (notBorrowFlag a b).toNat = if a.toNat ≥ b.toNat then 1 else 0 := by
  simp [notBorrowFlag]

/-- A difference of bytes as a number. -/
theorem toNat_byte_sub (a b : Byte) : (a - b).toNat = (256 + a.toNat - b.toNat) % 256 := by
  rw [BitVec.toNat_sub]
  omega

/-- Settles O24: the difference of two bytes modulo 256, and not-borrow of the two that were. -/
theorem subtractionsSetNotBorrow : Obligations.SubtractionsSetNotBorrow := fun x y s =>
  ⟨writesRegs_of_exec_setFlag (exec_sub x y s) (notBorrowFlag_toNat _ _) (toNat_byte_sub _ _),
    writesRegs_of_exec_setFlag (exec_subn x y s) (notBorrowFlag_toNat _ _) (toNat_byte_sub _ _)⟩

/-- The value a shift reads, as a number (R150). -/
theorem State.shiftSource_toNat (s : State) (x y : RegIdx) :
    (s.shiftSource x y).toNat =
      if s.config.quirks.legacyShift = true then (s.reg y).toNat else (s.reg x).toNat :=
  apply_ite BitVec.toNat _ _ _

/-- The bit a right shift moves out is the remainder by 2 (R151). -/
theorem shiftedOutRight_toNat (b : Byte) : (shiftedOutRight b).toNat = b.toNat % 2 := by
  simp [shiftedOutRight, Nat.and_one_is_mod]

/-- The bit a left shift moves out is the quotient by 128 (R153). -/
theorem shiftedOutLeft_toNat (b : Byte) : (shiftedOutLeft b).toNat = b.toNat / 128 := by
  simp [shiftedOutLeft, Nat.shiftRight_eq_div_pow]

/-- Settles O25: one shift is a division or a product by 2, under either value of the quirk. -/
theorem shiftsMoveOneBitIntoTheFlag : Obligations.ShiftsMoveOneBitIntoTheFlag := by
  intro x y s source hsource
  rw [← State.shiftSource_toNat] at hsource
  subst hsource
  refine ⟨writesRegs_of_exec_setFlag (exec_shr x y s) (shiftedOutRight_toNat _) ?_,
    writesRegs_of_exec_setFlag (exec_shl x y s) (shiftedOutLeft_toNat _) ?_⟩
  · simp [Nat.shiftRight_eq_div_pow]
  · simp [Nat.shiftLeft_eq, Nat.mul_comm]

end Sys2Proof.Machine
end

section
/-! PROOFS. The index register and the memory transfers (R170 to R177), with the errors of an access (R55, R56). -/

namespace Sys2Proof.Machine

/-! ### The index and the font -/

/-- The address of a glyph as a number: the font lies low enough for the sum not to wrap (R37, R172). -/
theorem glyphAddress_toNat (c : Config) (b : Byte) :
    (glyphAddress c b).toNat = c.fontBase.val + 5 * (b.toNat % 16) := by
  simp only [glyphAddress, BitVec.toNat_ofNat, lowNibble_val]
  omega

/-- Settles O26: the index gets a 12-bit address or a glyph's, neither of which wraps. -/
theorem indexLoadsSetTheIndexAlone : Obligations.IndexLoadsSetTheIndexAlone := fun nnn x s =>
  ⟨⟨_, exec_ldI nnn s, addressOperand_toNat nnn, rfl, rfl, fun _ => rfl, ⟨rfl, rfl, rfl⟩, ⟨rfl, rfl⟩, fun _ => rfl,
      ⟨rfl, rfl, rfl, rfl, rfl, rfl⟩⟩,
    ⟨_, exec_ldF x s, glyphAddress_toNat s.config (s.reg x), rfl, rfl, fun _ => rfl, ⟨rfl, rfl, rfl⟩, ⟨rfl, rfl⟩,
      fun _ => rfl, ⟨rfl, rfl, rfl, rfl, rfl, rfl⟩⟩⟩

/-- Settles O27: the sum of two words modulo 65536, and under the quirk the flag of the sum that was. -/
theorem addToIndexWrapsAndFlags : Obligations.AddToIndexWrapsAndFlags := by
  intro x s
  refine ⟨_, exec_addI x s, ?_, fun q => ?_, rfl, rfl, ⟨rfl, rfl, rfl⟩, ⟨rfl, rfl⟩, fun _ => rfl,
    ⟨rfl, rfl, rfl, rfl, rfl, rfl⟩⟩
  · simp [BitVec.toNat_add]
  · by_cases hq : s.config.quirks.indexOverflowFlag = true
    · have hreg := State.reg_setReg s 15 q (indexOverflow s.i (s.reg x))
      simp only [hq, if_true, true_and]
      refine (congrArg BitVec.toNat hreg).trans ?_
      rw [apply_ite BitVec.toNat, indexOverflow, flagByte_toNat]
      simp only [decide_eq_true_eq]
    · simp only [hq]
      rfl

/-- The reset contents hold the font at its base (R37, R38). -/
theorem fontGlyphs_eq_resetByte (c : Config) (k : Nat) (hk : k < 80) :
    c.fontGlyphs[k]? = some (c.resetByte (c.fontBase.val + k)) := by
  have hfont : c.fontBase.val ≤ c.fontBase.val + k ∧ c.fontBase.val + k < c.fontBase.val + 80 := by omega
  simp [Config.resetByte, hfont, hk]

/-- Settles O28: the glyph lies in the reserved region, which reads as its reset contents under the invariant. -/
theorem theIndexedGlyphIsIntact : Obligations.TheIndexedGlyphIsIntact := by
  intro x s h
  refine ⟨_, exec_ldF x s, fun k hk => ?_⟩
  have hbase := s.config.fontBase.isLt
  have hread : s.readByte (s.config.fontBase.val + (5 * ((s.reg x).toNat % 16) + k)) =
      s.config.resetByte (s.config.fontBase.val + (5 * ((s.reg x).toNat % 16) + k)) :=
    h.readByte_reserved (by omega)
  rw [fontGlyphs_eq_resetByte _ _ (by omega), ← hread]
  simp only [glyphAddress_toNat, Nat.add_assoc]
  rfl

/-! ### Stores and loads -/

section
variable {s t : State} {bytes : List Byte} {a : Nat} (h : Memory.Rising s.mem) (hconfig : t.config = s.config)
  (hmem : t.mem = (s.writeBytes a bytes).mem)
include h hconfig hmem

/-- A byte read from a state whose memory is that after bytes were written from `a` up. -/
theorem readByte_of_written (c : Nat) :
    t.readByte c = if a ≤ c then bytes.getD (c - a) (s.readByte c) else s.readByte c := by
  rw [← State.readByte_writeBytes bytes s h a c]
  refine sameMemory_of_eq ?_ hmem c
  rw [hconfig, State.writeBytes_eq]

/-- Inside the bytes written. -/
theorem readByte_of_written_inside (k : Nat) : t.readByte (a + k) = bytes.getD k (s.readByte (a + k)) := by
  rw [readByte_of_written h hconfig hmem, if_pos (Nat.le_add_right a k), Nat.add_sub_cancel_left]

/-- Outside the bytes written. -/
theorem readByte_of_written_outside {c : Nat} (hc : c < a ∨ a + bytes.length ≤ c) : t.readByte c = s.readByte c := by
  rw [readByte_of_written h hconfig hmem]
  split
  · exact List.getD_eq_default _ _ (by omega)
  · rfl

end

/-- No address of a range offends where the whole range lies in program memory. -/
theorem firstBad_writable_eq_none {a n : Nat} (hlow : 0x200 ≤ a) (hhigh : a + n ≤ 0x1000) :
    firstBad writable a n = none :=
  (firstBad_eq_none _ _ _).mpr fun b hb hbn => by
    simp only [writable, decide_eq_true_eq]
    omega

/-- The three digits as numbers (R173). -/
theorem decimalDigits_toNat (b d : Byte) :
    ((decimalDigits b).getD 0 d).toNat = b.toNat / 100 ∧ ((decimalDigits b).getD 1 d).toNat = b.toNat / 10 % 10 ∧
      ((decimalDigits b).getD 2 d).toNat = b.toNat % 10 := by
  have hb := b.isLt
  simp only [decimalDigits, List.getD_cons_zero, List.getD_cons_succ, BitVec.toNat_ofNat]
  omega

/-- Settles O29: the three digits are written in order, and nothing else of memory. -/
theorem decimalDigitsAreStored : Obligations.DecimalDigitsAreStored := by
  intro x s h hlow hhigh
  have hinside (k : Nat) := readByte_of_written_inside (bytes := decimalDigits (s.reg x)) (a := s.i.toNat)
    (t := { s with mem := (s.writeBytes s.i.toNat (decimalDigits (s.reg x))).mem, pc := s.pc + 2 }) h.memory.1 rfl rfl k
  refine ⟨_, exec_ldB x s (firstBad_writable_eq_none hlow (by omega)), ?_, ?_, ?_, fun a ha => ?_, rfl, rfl, rfl,
    fun _ => rfl, ⟨rfl, rfl, rfl⟩, ⟨rfl, rfl⟩, ⟨rfl, rfl, rfl, rfl, rfl, rfl⟩⟩
  · exact (congrArg BitVec.toNat (hinside 0)).trans (decimalDigits_toNat _ _).1
  · exact (congrArg BitVec.toNat (hinside 1)).trans (decimalDigits_toNat _ _).2.1
  · exact (congrArg BitVec.toNat (hinside 2)).trans (decimalDigits_toNat _ _).2.2
  · exact readByte_of_written_outside (bytes := decimalDigits (s.reg x)) h.memory.1 (by rfl) (by rfl) ha

/-- The index after a block transfer as a number (R176). -/
theorem State.indexAfterBlock_toNat (s : State) (x : RegIdx) :
    (s.indexAfterBlock x).toNat =
      if s.config.quirks.incrementIndexOnBlockIo = true then (s.i.toNat + x.val + 1) % 65536 else s.i.toNat := by
  unfold State.indexAfterBlock blockSize
  split
  · simp [BitVec.toNat_add, Nat.add_assoc]
  · rfl

/-- Settles O30: the registers of the block are written in order, and nothing else of memory. -/
theorem blockStoreWritesTheRegisters : Obligations.BlockStoreWritesTheRegisters := by
  intro x s h hlow hhigh
  have hbad : firstBad writable s.i.toNat (blockSize x) = none :=
    firstBad_writable_eq_none hlow (by unfold blockSize; omega)
  refine ⟨_, exec_ldMemVx x s hbad, fun k hk => ?_, fun a ha => ?_, s.indexAfterBlock_toNat x, rfl, rfl,
    fun _ => rfl, ⟨rfl, rfl, rfl⟩, ⟨rfl, rfl⟩, ⟨rfl, rfl, rfl, rfl, rfl, rfl⟩⟩
  · refine Eq.trans (readByte_of_written_inside (bytes := (blockRegs x).map s.reg) h.memory.1 (by rfl) (by rfl) k.val) ?_
    simp [List.getD, blockRegs_getElem? x k hk]
  · refine readByte_of_written_outside (bytes := (blockRegs x).map s.reg) h.memory.1 (by rfl) (by rfl) ?_
    rw [List.length_map, blockRegs_length, blockSize]
    omega

/-- Settles O31: a block load reads the registers of the block, and its state differs in registers, index and PC. -/
theorem blockLoadReadsTheRegisters : Obligations.BlockLoadReadsTheRegisters := by
  intro x s hhigh
  have hbad : firstBad readable s.i.toNat (blockSize x) = none :=
    (firstBad_readable_eq_none _ _).mpr fun r hr => by unfold blockSize at hr; omega
  exact ⟨_, exec_ldVxMem x s hbad, fun q => State.reg_loadBlock s x q, s.indexAfterBlock_toNat x, rfl, rfl,
    ⟨rfl, rfl, rfl⟩, ⟨rfl, rfl⟩, fun _ => rfl, ⟨rfl, rfl, rfl, rfl, rfl, rfl⟩⟩

/-! ### The errors of an access -/

/-- The check of an access finds the first offending address (R55, R243). -/
theorem firstBad_of_firstOffending {allowed : Nat → Bool} {base count a : Nat}
    (h : FirstOffending (fun b => allowed b = true) base count a) : firstBad allowed base count = some a := by
  obtain ⟨hlow, hhigh, hbad, hfirst⟩ := h
  exact (firstBad_eq_some _ _ _ _).mpr ⟨⟨hlow, hhigh⟩, Bool.eq_false_iff.mpr hbad, hfirst⟩

/-- The bounds of a store (R55, R56). -/
theorem firstBad_writable_of_firstOffending {base count a : Nat}
    (h : FirstOffending (fun b => 0x200 ≤ b ∧ b < 0x1000) base count a) : firstBad writable base count = some a :=
  firstBad_of_firstOffending (by simpa only [writable, decide_eq_true_eq] using h)

/-- The bound of a load (R55). -/
theorem firstBad_readable_of_firstOffending {base count a : Nat}
    (h : FirstOffending (fun b => b < 0x1000) base count a) : firstBad readable base count = some a :=
  firstBad_of_firstOffending (by simpa only [readable, decide_eq_true_eq] using h)

/-- Settles O32: the check names the first offending address, and the instruction takes the error. -/
theorem accessErrorsNameTheFirstAddress : Obligations.AccessErrorsNameTheFirstAddress := by
  intro x y n s a
  refine ⟨fun h => ⟨_, ?_, s.takeError_errorTaken _⟩, fun h => ⟨_, ?_, s.takeError_errorTaken _⟩,
    fun h => ⟨_, ?_, s.takeError_errorTaken _⟩, fun h => ⟨_, ?_, s.takeError_errorTaken _⟩⟩
  · exact exec_ldB_error x s a (firstBad_writable_of_firstOffending h)
  · exact exec_ldMemVx_error x s a (firstBad_writable_of_firstOffending h)
  · exact exec_ldVxMem_error x s a (firstBad_readable_of_firstOffending h)
  · exact exec_drw_error x y n s a (firstBad_readable_of_firstOffending h)

end Sys2Proof.Machine
end

section
/-! PROOFS. Clear screen, sprites and the random byte (R190 to R194). -/

namespace Sys2Proof.Machine

/-- Settles O33: the clear framebuffer has no set pixel. -/
theorem clearScreenClearsEveryPixel : Obligations.ClearScreenClearsEveryPixel := fun s =>
  ⟨_, exec_cls s, Framebuffer.pixel_clear, rfl, rfl, rfl, rfl, fun _ => rfl, ⟨rfl, rfl, rfl⟩, fun _ => rfl,
    ⟨rfl, rfl, rfl, rfl, rfl, rfl⟩⟩

/-! ### One draw -/

section
variable {s : State} {x y : RegIdx} {n : Fin 16} {px : Fin 64} {py : Fin 32}

/-- A pixel the sprite covers is flipped (R192). -/
theorem State.drawn_pixel_of_covers (h : SpriteCovers s x y n px py) :
    Framebuffer.pixel (s.drawn x y n).1 px py = !Framebuffer.pixel s.fb px py := by
  rw [State.drawn_pixel, (rowsCover_iff_spriteCovers s x y n px py).mpr h, Bool.xor_true]

/-- A pixel the sprite does not cover stays (R192). -/
theorem State.drawn_pixel_of_not_covers (h : ¬ SpriteCovers s x y n px py) :
    Framebuffer.pixel (s.drawn x y n).1 px py = Framebuffer.pixel s.fb px py := by
  rw [State.drawn_pixel, Bool.eq_false_iff.mpr (mt (rowsCover_iff_spriteCovers s x y n px py).mp h), Bool.xor_false]

end

/-- The collision flag is 1 exactly on a hit (R192). -/
theorem collisionFlag_eq_one_iff (hit : Bool) : collisionFlag hit = 1 ↔ hit = true := by
  cases hit <;> decide

/-- Settles O34: the drawing loop flips what the sprite covers, and hits where a covered pixel was set. -/
theorem drawFlipsTheCoveredPixels : Obligations.DrawFlipsTheCoveredPixels := by
  intro x y n s hbytes
  have hflag (q : RegIdx) := State.reg_setReg s 15 q (collisionFlag (s.drawn x y n).2)
  refine ⟨_, exec_drw x y n s ((firstBad_readable_eq_none _ _).mpr hbytes), fun px py => State.drawn_pixel_of_covers,
    fun px py => State.drawn_pixel_of_not_covers, fun hset => ?_, fun hclear => ?_, fun q hq => ?_, rfl, rfl, rfl, rfl,
    ⟨rfl, rfl, rfl⟩, fun _ => rfl, ⟨rfl, rfl, rfl, rfl, rfl, rfl⟩⟩
  · refine (hflag 15).trans ?_
    rw [(s.drawn_collides x y n).mpr hset]
    rfl
  · have hmiss : (s.drawn x y n).2 = false := by
      refine Bool.eq_false_iff.mpr fun hhit => ?_
      obtain ⟨px, py, hcovers, hpixel⟩ := (s.drawn_collides x y n).mp hhit
      rw [hclear px py hcovers] at hpixel
      cases hpixel
    refine (hflag 15).trans ?_
    rw [hmiss]
    rfl
  · exact (hflag q).trans (if_neg hq)

/-! ### A second draw at the same place -/

/-- Framebuffers with the same pixels are the same. -/
theorem Framebuffer.ext_pixel {fb fb' : Framebuffer} (h : ∀ px py, Framebuffer.pixel fb px py = Framebuffer.pixel fb' px py) :
    fb = fb' :=
  Vector.ext fun py hy => Vector.ext fun px hx => h ⟨px, hx⟩ ⟨py, hy⟩

/-- What a sprite covers depends on the index, the sprite's bytes and the two coordinates alone (R191). -/
theorem spriteCovers_congr {s u : State} {x y x' y' : RegIdx} {n : Fin 16} (hi : u.i = s.i)
    (hbytes : ∀ r, r < n.val → u.readByte (s.i.toNat + r) = s.readByte (s.i.toNat + r)) (hx : u.reg x' = s.reg x)
    (hy : u.reg y' = s.reg y) (px : Fin 64) (py : Fin 32) :
    SpriteCovers u x' y' n px py ↔ SpriteCovers s x y n px py := by
  unfold SpriteCovers
  rw [hi, hx, hy]
  refine exists_congr fun r => exists_congr fun c => and_congr_right fun hr => ?_
  rw [hbytes r hr]

/-- Settles O35: the second draw covers the same pixels and flips them back; it hits where the first one set a pixel. -/
theorem drawingTwiceRestoresThePixels : Obligations.DrawingTwiceRestoresThePixels := by
  intro x y x' y' n s t u hbytes ht hfb hi hsame hx hy
  rw [exec_drw x y n s ((firstBad_readable_eq_none _ _).mpr hbytes)] at ht
  cases ht
  have hcovers := spriteCovers_congr hi hsame hx hy
  have hhit : (u.drawn x' y' n).2 = true ↔
      ∃ px py, SpriteCovers s x y n px py ∧ Framebuffer.pixel s.fb px py = false := by
    refine (u.drawn_collides x' y' n).trans (exists_congr fun px => exists_congr fun py => ?_)
    rw [hcovers px py, hfb]
    refine and_congr_right fun hc => ?_
    rw [State.drawn_pixel_of_covers hc, Bool.not_eq_true']
  have hflag : ({ u with
      fb := (u.drawn x' y' n).1, v := u.v.set 15 (collisionFlag (u.drawn x' y' n).2), displayDirty := true,
      pc := u.pc + 2 } : State).reg 15 = 1 ↔
      ∃ px py, SpriteCovers s x y n px py ∧ Framebuffer.pixel s.fb px py = false := by
    rw [← hhit, ← collisionFlag_eq_one_iff]
    exact Eq.congr (State.reg_setReg u 15 15 _) rfl
  refine ⟨_, exec_drw x' y' n u ((firstBad_readable_eq_none _ _).mpr (by rwa [hi])), ?_, hflag, fun hclear => ?_⟩
  · refine Framebuffer.ext_pixel fun px py => ?_
    by_cases hc : SpriteCovers s x y n px py
    · rw [State.drawn_pixel_of_covers ((hcovers px py).mpr hc), hfb, State.drawn_pixel_of_covers hc, Bool.not_not]
    · rw [State.drawn_pixel_of_not_covers (mt (hcovers px py).mp hc), hfb, State.drawn_pixel_of_not_covers hc]
  · exact hflag.trans (exists_congr fun px => exists_congr fun py => and_iff_left_of_imp (hclear px py))

/-- Settles O36: one write of a register with the draw under the mask, and one draw counted. -/
theorem randomIsOneDrawUnderTheMask : Obligations.RandomIsOneDrawUnderTheMask := by
  intro x nn s
  refine ⟨_, exec_rnd x nn s, fun q k => ?_, rfl, rfl, rfl, rfl, ⟨rfl, rfl, rfl⟩, ⟨rfl, rfl⟩, fun _ => rfl, rfl, rfl, rfl,
    rfl, rfl⟩
  refine (congrArg (BitVec.getLsbD · k) (State.reg_setReg s x q (s.nextDraw &&& nn))).trans ?_
  split
  · exact BitVec.getLsbD_and
  · rfl

end Sys2Proof.Machine
end

section
/-! PROOFS. Timers and keys (R210 to R215, R264, R265), the events of the other agents, the modes they leave (R109, R257, R268),
reset (R280 to R284), and the tick's cadence (R256). -/

namespace Sys2Proof.Machine

/-! ### Timer transfers and the wait for a key -/

/-- Settles O37: each transfer moves one value, and `FX18` notifies as a write of the sound timer does. -/
theorem timerTransfersMoveTheValue : Obligations.TimerTransfersMoveTheValue := fun x s =>
  ⟨writesRegs_of_exec_set (exec_ldVxDt x s) fun _ => rfl,
    ⟨_, exec_ldDtVx x s, rfl, rfl, rfl, rfl, rfl, rfl, fun _ => rfl, ⟨rfl, rfl⟩, fun _ => rfl,
      ⟨rfl, rfl, rfl, rfl, rfl, rfl⟩⟩,
    ⟨_, exec_ldStVx x s, rfl, rfl, s.setSound_soundNotes_eq_ite_zero (s.reg x), rfl, rfl, rfl, fun _ => rfl, ⟨rfl, rfl⟩,
      fun _ => rfl, ⟨rfl, rfl, rfl, rfl, rfl, rfl⟩⟩⟩

/-- Settles O38: the next state differs in the mode alone. -/
theorem waitForKeyHoldsThePc : Obligations.WaitForKeyHoldsThePc := fun x s =>
  ⟨_, exec_ldVxK x s, rfl, rfl, fun _ => rfl, rfl, rfl, ⟨rfl, rfl, rfl⟩, ⟨rfl, rfl⟩, fun _ => rfl, rfl, rfl, rfl, rfl, rfl⟩

/-- Settles O39: the lowest edge completes a wait; without an edge or a wait there is no lowest edge to act on. -/
theorem keyUpdateCompletesTheWait : Obligations.KeyUpdateCompletesTheWait := by
  intro s new
  refine ⟨fun x k hmode hup hdown hlower => ?_, fun h => ?_, fun h => ?_⟩
  · have hedge := (lowestEdge_eq_some s.keys new k).mpr ⟨⟨hup, hdown⟩, hlower⟩
    refine ⟨_, congrArg Host.Outcome.next (s.keyUpdate_of_edge new x k hmode hedge), fun q => ?_, rfl, rfl, rfl, rfl⟩
    refine (congrArg BitVec.toNat (State.reg_setReg s x q (BitVec.ofNat 8 k.val))).trans ?_
    split
    · simp only [BitVec.toNat_ofNat]
      omega
    · rfl
  · exact congrArg Host.Outcome.next (s.keyUpdate_of_no_edge new ((lowestEdge_eq_none s.keys new).mpr h))
  · exact congrArg Host.Outcome.next (s.keyUpdate_of_not_waiting new h)

/-- Settles O43: a present event is one write of the dirty flag. -/
theorem presentClearsTheDirtyFlag : Obligations.PresentClearsTheDirtyFlag := fun _ => ⟨_, rfl, rfl, rfl⟩

/-! ### The modes that execute nothing -/

/-- Settles O51: a tick passes unseen, and a key update and a present event write the keys and the dirty flag. -/
theorem haltedIsLeftByResetAlone : Obligations.HaltedIsLeftByResetAlone := by
  intro s er e hmode
  refine ⟨executorTurn_of_halted hmode, fun t ht hreset => ?_⟩
  cases e with
  | step => exact nomatch (executorTurn_of_halted hmode).symm.trans ht
  | tick =>
    cases ht
    rw [s.tick_of_halted er hmode]
  | keyUpdate new =>
    cases ht
    rw [s.keyUpdate_of_not_waiting new (by simp [hmode])]
  | present => cases ht; rfl
  | reset program => exact absurd rfl (hreset program)
  | stop => cases ht

/-- Settles O52: a step changes nothing, a tick writes the timers, a present event the dirty flag, and a key update the keys
unless it has an edge. -/
theorem theWaitIsLeftByAnEdgeOrReset : Obligations.TheWaitIsLeftByAnEdgeOrReset := by
  intro s t x e hmode ht hreset
  have hturn := executorTurn_of_awaitingKey hmode
  cases e with
  | step =>
    obtain rfl : s = t := Host.Outcome.next.inj (hturn.symm.trans ht)
    exact ⟨fun _ => rfl, .inl rfl⟩
  | tick =>
    cases ht
    refine ⟨nofun, .inl ?_⟩
    rw [s.tick_of_not_halted (by simp [hmode])]
    rfl
  | keyUpdate new =>
    cases ht
    refine ⟨nofun, ?_⟩
    rcases s.keyUpdate_cases new with hk | ⟨y, k, -, hedge, hk⟩ <;> rw [hk]
    · exact .inl rfl
    · exact .inr ⟨new, rfl, rfl, k, ((lowestEdge_eq_some s.keys new k).mp hedge).1⟩
  | present =>
    cases ht
    exact ⟨nofun, .inl rfl⟩
  | reset program => exact absurd rfl (hreset program)
  | stop => cases ht

/-! ### Reset -/

/-- A reset with a program that fits is the reset operation (R283). -/
theorem runEvent_reset (s : State) {program : List Byte} (h : program.length ≤ 3584) :
    runEvent (.reset program) s = .next (s.resetWith program) :=
  if_pos h

/-- The program's bytes lie from 0x200 on (R280). -/
theorem State.readByte_resetWith_program (s : State) (program : List Byte) {a : Nat} (hlow : 0x200 ≤ a)
    (hhigh : a < 0x200 + program.length) : program[a - 0x200]? = some ((s.resetWith program).readByte a) := by
  have hlength : a - 0x200 < program.length := by omega
  rw [s.readByte_resetWith, if_pos hlow, List.getElem?_eq_getElem hlength]
  simp [List.getD, hlength]

/-- Outside the program memory holds its reset contents (R280). -/
theorem State.readByte_resetWith_outside (s : State) (program : List Byte) {a : Nat}
    (ha : a < 0x200 ∨ 0x200 + program.length ≤ a) : (s.resetWith program).readByte a = s.config.resetByte a := by
  rw [s.readByte_resetWith]
  split
  · exact List.getD_eq_default _ _ (by omega)
  · rfl

/-- Outside the font the reset contents are 0 (R39). -/
theorem resetByte_eq_zero (c : Config) {a : Nat} (ha : a < c.fontBase.val ∨ c.fontBase.val + 80 ≤ a) : c.resetByte a = 0 :=
  dif_neg (by omega)

/-- Settles O41: the fields as `resetWith_eq` gives them, and memory as program, font and zeros. -/
theorem resetReinitialisesTheMachine : Obligations.ResetReinitialisesTheMachine := by
  intro s program hfit
  have heq := s.resetWith_eq program
  have hbase := s.config.fontBase.isLt
  refine ⟨s.resetWith program, runEvent_reset s hfit, fun q => ?_, by rw [heq], by rw [heq], by rw [heq], by rw [heq],
    by rw [heq], fun px py => ?_, by rw [heq], by rw [heq], by rw [heq], by rw [heq],
    fun a => s.readByte_resetWith_program program, fun k hk => ?_, fun a hfont hprogram => ?_, by rw [heq], by rw [heq],
    by rw [heq], by rw [heq]⟩
  · rw [heq]
    simp [State.reg]
  · rw [heq]
    exact Framebuffer.pixel_clear px py
  · rw [s.readByte_resetWith_outside program (.inl (by omega)), fontGlyphs_eq_resetByte _ k hk]
  · rw [s.readByte_resetWith_outside program hprogram, resetByte_eq_zero _ hfont]

/-- Settles O42: the loader compares the length, and the last byte of 3,584 lies at 0xFFF. -/
theorem programsThatDoNotFitAreRefused : Obligations.ProgramsThatDoNotFitAreRefused := by
  refine fun s program => ⟨fun h => if_neg (Nat.not_le.mpr h), fun h => ?_⟩
  exact ⟨_, runEvent_reset s h.le, s.readByte_resetWith_program program (a := 0xFFF) (by decide) (by omega)⟩

/-- Nothing is listed in memory right after reset, so it reads as its reset contents. -/
theorem readByte_reset (a : Nat) : State.reset.readByte a = defaultConfig.resetByte a := rfl

/-- Settles O44: the fields by definition, the glyphs byte by byte, and zero outside the default font's place. -/
theorem resetStateIsAsTheTableSays : Obligations.ResetStateIsAsTheTableSays := by
  refine ⟨by decide, rfl, rfl, rfl, rfl, rfl, Framebuffer.pixel_clear, rfl, by decide, rfl, rfl, rfl, rfl, rfl, rfl, rfl, rfl,
    rfl, rfl, rfl, rfl, rfl, rfl, rfl, rfl, rfl, rfl, fun a ha => ?_⟩
  exact (readByte_reset a).trans (resetByte_eq_zero defaultConfig ha)

/-! ### The delay timer under the 60 Hz cadence -/

/-- A step of the executor that fetches no word of `FX15` keeps `DT` (R27, R214). -/
theorem executorStep_dt {s t : State} (h : executorStep s = .next t)
    (hword : ∀ w x, s.fetch = .ok w → decode w ≠ .instr (.ldDtVx x)) : t.dt = s.dt := by
  rw [executorStep] at h
  cases hf : s.fetch with
  | error e =>
    rw [hf] at h
    cases h
    rfl
  | ok w =>
    rw [hf] at h
    cases hd : decode w with
    | unrecognized v =>
      simp only [hd] at h
      cases h
      rfl
    | instr i =>
      simp only [hd, execDescriptor] at h
      by_contra hne
      obtain ⟨x, rfl⟩ := (effect_of_exec h).writersOf.dt hne
      exact hword w x hf hd

/-- An event under the premises of `DelayLeftToTicks` goes on, and only a tick counts `DT` down. -/
theorem runEvent_delay {e : Event} {s : State} (hreset : ∀ program, e ≠ .reset program) (hstop : e ≠ .stop)
    (hhalted : ∀ er, s.mode ≠ .halted er)
    (hstep : e = .step → s.mode = .running → ∀ w x, s.fetch = .ok w → decode w ≠ .instr (.ldDtVx x)) :
    ∃ t, runEvent e s = .next t ∧ t.dt.toNat = s.dt.toNat - if e = .tick then 1 else 0 := by
  cases e with
  | step =>
    rcases Mode.eq_cases s.mode with hm | ⟨x, hm⟩ | ⟨er, hm⟩
    · obtain ⟨t, ht⟩ := executorStep_next s
      exact ⟨t, (executorTurn_of_running hm).trans ht, congrArg BitVec.toNat (executorStep_dt ht (hstep rfl hm))⟩
    · exact ⟨s, executorTurn_of_awaitingKey hm, rfl⟩
    · exact absurd hm (hhalted er)
  | tick =>
    refine ⟨s.tick, rfl, ?_⟩
    rw [s.tick_of_not_halted hhalted]
    exact timerAfterTick_toNat s.dt
  | keyUpdate new =>
    refine ⟨s.keyUpdate new, rfl, ?_⟩
    rcases s.keyUpdate_cases new with hk | ⟨x, k, -, -, hk⟩ <;> rw [hk] <;> rfl
  | present => exact ⟨s.present, rfl, rfl⟩
  | reset program => exact absurd rfl (hreset program)
  | stop => exact absurd rfl hstop

/-- A run that leaves `DT` to the ticks goes on to its end, and `DT` loses one per tick and stays at 0. -/
theorem play_delay (events : List Event) (s : State) (h : DelayLeftToTicks events s) :
    ∃ t, play events s = .next t ∧ t.dt.toNat = s.dt.toNat - events.countP (fun e => decide (e = .tick)) := by
  induction events generalizing s with
  | nil => exact ⟨s, rfl, rfl⟩
  | cons e events ih =>
    obtain ⟨hreset, hstop, hhalted, hstep, hrest⟩ := h
    obtain ⟨t, ht, hdt⟩ := runEvent_delay hreset hstop hhalted hstep
    obtain ⟨u, hu, hdu⟩ := ih t (hrest t ht)
    refine ⟨u, ?_, ?_⟩
    · simp only [play, ht, hu]
    · rw [hdu, hdt, List.countP_cons]
      simp only [decide_eq_true_eq]
      omega

/-- In one second at the 60 Hz cadence there are 60 ticks (R256). -/
theorem ticks_of_second {second : Nat} {run : List (Nat × Event)} (hsecond : 0 < second)
    (hduration : ∀ te ∈ run, te.1 < second) (hcadence : TickCadence second second run) :
    run.countP (fun te => decide (te.2 = .tick)) = 60 := by
  have hcount : eventsBetween (fun e => decide (e = .tick)) run 0 (0 + second) =
      run.countP (fun te => decide (te.2 = .tick)) :=
    List.countP_congr fun te hte => by simp [hduration te hte]
  have hfloor : 60 * second / second = 60 := Nat.mul_div_cancel 60 hsecond
  have hceiling : (60 * second + second - 1) / second = 60 :=
    Nat.div_eq_of_lt_le (by omega) (by rw [Nat.add_mul]; omega)
  rw [← hcount]
  rcases hcadence 0 second (by omega) with h | h
  · exact h.trans hfloor
  · exact h.trans hceiling

/-- Settles O53: the run's ticks are all that counts `DT` down, and one second has 60 of them. -/
theorem sixtyTicksASecondWhateverTheRate : Obligations.SixtyTicksASecondWhateverTheRate := by
  intro run s h
  obtain ⟨t, ht, hdt⟩ := play_delay _ s h
  have hticks : (run.map Prod.snd).countP (fun e => decide (e = .tick)) = run.countP (fun te => decide (te.2 = .tick)) :=
    List.countP_map
  rw [hticks] at hdt
  refine ⟨t, ht, hdt, fun second hsecond hduration hcadence hsixty => ?_⟩
  have hcount := ticks_of_second hsecond hduration hcadence
  exact ⟨by rw [hdt, hsixty, hcount], hcount⟩

end Sys2Proof.Machine
end
